-- ==== Sys2Proof/Word.lean ====
section
/-! DEFINITION. The word types of the machine and the two effective register widths (10_state.md R24, R31). -/

namespace Sys2Proof

/-- A register image. Every XLEN-wide register is held in 64 bits; at XLEN = 32 the value is in the low half. -/
abbrev Word := BitVec 64

/-- One 32-bit instruction word (30_encoding.md R180). -/
abbrev InstrWord := BitVec 32

/-- One byte of memory (20_memory.md R140). -/
abbrev Byte := BitVec 8

/-- An effective XLEN: 32 or 64 (00_scope.md R7, parameters HSXLEN, VSXLEN, VUXLEN). -/
inductive Xlen where
  | x32
  | x64
  deriving DecidableEq, Repr, Inhabited

/-- The number of bits of an XLEN. -/
def Xlen.bits : Xlen → Nat
  | .x32 => 32
  | .x64 => 64

end Sys2Proof
end

