-- ==== Sys2Proof/Syntax.lean ====
section
/-! DEFINITION. The instructions: one constructor for each of the 27 rows of spec/opcode_table.json
(30_encoding.md R186 to R188), operands in the order the assembler writes them (R191). -/

namespace Sys2Proof

/-- A general register number, bits 11:7, 19:15 or 24:20 of a word (30_encoding.md R181, R182). -/
abbrev Reg := BitVec 5

/-- A CSR address, bits 31:20 of a CSR instruction (30_encoding.md R181). -/
abbrev CsrAddr := BitVec 12

inductive Instr where
  -- CSR instructions, 40_csr_access.md R221 to R226
  | csrrw (rd : Reg) (csr : CsrAddr) (rs1 : Reg)
  | csrrs (rd : Reg) (csr : CsrAddr) (rs1 : Reg)
  | csrrc (rd : Reg) (csr : CsrAddr) (rs1 : Reg)
  | csrrwi (rd : Reg) (csr : CsrAddr) (uimm : BitVec 5)
  | csrrsi (rd : Reg) (csr : CsrAddr) (uimm : BitVec 5)
  | csrrci (rd : Reg) (csr : CsrAddr) (uimm : BitVec 5)
  -- the privileged group, 42_privileged.md and 60_exceptions.md R358
  | ecall
  | ebreak
  | sret
  | mret
  | wfi
  | sfenceVma (rs1 rs2 : Reg)
  | hfenceVvma (rs1 rs2 : Reg)
  | hfenceGvma (rs1 rs2 : Reg)
  -- virtual-machine loads, 41_vm_load_store.md R256 to R264
  | hlvB (rd rs1 : Reg)
  | hlvBu (rd rs1 : Reg)
  | hlvH (rd rs1 : Reg)
  | hlvHu (rd rs1 : Reg)
  | hlvxHu (rd rs1 : Reg)
  | hlvW (rd rs1 : Reg)
  | hlvWu (rd rs1 : Reg)
  | hlvxWu (rd rs1 : Reg)
  | hlvD (rd rs1 : Reg)
  -- virtual-machine stores, 41_vm_load_store.md R265 to R268
  | hsvB (rs2 rs1 : Reg)
  | hsvH (rs2 rs1 : Reg)
  | hsvW (rs2 rs1 : Reg)
  | hsvD (rs2 rs1 : Reg)
  deriving DecidableEq, Repr, Inhabited

end Sys2Proof
end

