-- ==== Sys2Proof/WellFormed.lean ====
section
/-! DEFINITION. Which instruction terms are instructions of a hart of a given width: register numbers, CSR
addresses and immediates are bounded by their types, so the one check left is the "RV64 only" of the opcode table
(30_encoding.md R188, R189). -/

namespace Sys2Proof

/-- HLV.WU, HLV.D and HSV.D exist only at XLEN 64 (30_encoding.md R188, 41_vm_load_store.md R250). -/
def Instr.rv64Only : Instr → Bool
  | .hlvWu _ _ => true
  | .hlvD _ _ => true
  | .hsvD _ _ => true
  | .csrrw _ _ _ | .csrrs _ _ _ | .csrrc _ _ _ | .csrrwi _ _ _ | .csrrsi _ _ _ | .csrrci _ _ _ => false
  | .ecall | .ebreak | .sret | .mret | .wfi => false
  | .sfenceVma _ _ | .hfenceVvma _ _ | .hfenceGvma _ _ => false
  | .hlvB _ _ | .hlvBu _ _ | .hlvH _ _ | .hlvHu _ _ | .hlvxHu _ _ | .hlvW _ _ | .hlvxWu _ _ => false
  | .hsvB _ _ | .hsvH _ _ | .hsvW _ _ => false

/-- The term is an instruction at the effective width `x`; an ill-formed one raises the illegal instruction
exception when it is executed (30_encoding.md R189). -/
def Instr.wellFormed (x : Xlen) (i : Instr) : Bool :=
  !(i.rv64Only && x == .x32)

end Sys2Proof
end

