-- ==== Sys2Proof/Decode.lean ====
section
/-! DEFINITION. The decoder, total on every word and every list of bytes, rejecting by name, and the encoder, both
written from the tables of 30_encoding.md R181, R182, R186 to R188; the opcode table itself as mask and match. -/

namespace Sys2Proof

/-- Why a word is no instruction of spec/opcode_table.json. -/
inductive Reject where
  /-- Fewer bytes than the instruction needs. -/
  | tooShort
  /-- Bits 1:0 are not 11: a 16-bit parcel (30_encoding.md R180). -/
  | compressed
  /-- The SYSTEM major opcode with no matching row: an illegal instruction (30_encoding.md R189). -/
  | reservedSystem
  /-- A floating-point instruction of the F or D extension: only its FS gate is in the spec (42_privileged.md R300). -/
  | floatingPoint
  /-- A word of another major opcode: of the base ISA, of its M or A extension, or of nothing (00_scope.md R6, 93 U24). -/
  | otherOpcode
  deriving DecidableEq, Repr

/-! ## Fields of a word (R181, R182) -/

def fieldOpcode (w : InstrWord) : BitVec 7 := w.extractLsb' 0 7
def fieldRd (w : InstrWord) : Reg := w.extractLsb' 7 5
def fieldFunct3 (w : InstrWord) : BitVec 3 := w.extractLsb' 12 3
def fieldRs1 (w : InstrWord) : Reg := w.extractLsb' 15 5
def fieldRs2 (w : InstrWord) : Reg := w.extractLsb' 20 5
def fieldFunct7 (w : InstrWord) : BitVec 7 := w.extractLsb' 25 7
def fieldCsr (w : InstrWord) : CsrAddr := w.extractLsb' 20 12

/-- The SYSTEM major opcode (30_encoding.md R180). -/
def opcodeSystem : BitVec 7 := 0b1110011

/-- An instruction of the F or D extension: LOAD-FP and STORE-FP of a word or a doubleword; MADD, MSUB, NMSUB, NMADD and
OP-FP in single or double format (bits 26:25). PRESUMED from the family: the spec names floating-point instructions and gives
no encoding of one (log 27). -/
def isFloatWord (w : InstrWord) : Bool :=
  let single := fieldFunct3 w == 2 || fieldFunct3 w == 3
  let format := w.extractLsb' 26 1 == 0
  match (fieldOpcode w).toNat with
  | 0x07 | 0x27 => single
  | 0x43 | 0x47 | 0x4B | 0x4F | 0x53 => format
  | _ => false

/-- A 16-bit load or store of a floating-point register at a width: C.FLD, C.FSD, C.FLDSP and C.FSDSP, and at 32 bits C.FLW, C.FSW,
C.FLWSP and C.FSWSP. PRESUMED from the family (log 27). -/
def isFloatParcel (x : Xlen) (w : InstrWord) : Bool :=
  let f3 := (w.extractLsb' 13 3).toNat
  let ls := f3 == 1 || f3 == 5 || (x == .x32 && (f3 == 3 || f3 == 7))
  match (w.extractLsb' 0 2).toNat with
  | 0 | 2 => ls
  | _ => false

/-- A 16-bit instruction of the C extension at a width, floating-point ones included: every parcel but the reserved ones.
PRESUMED from the family (log 26). -/
def isCompressedWord (x : Xlen) (w : InstrWord) : Bool :=
  let wide := x == .x64
  let hi := w.extractLsb' 12 1 == 1
  let rd := fieldRd w
  let rs2 := w.extractLsb' 2 5
  match (w.extractLsb' 0 2).toNat, (w.extractLsb' 13 3).toNat with
  | 0, 0 => w.extractLsb' 5 8 != 0                                  -- C.ADDI4SPN
  | 0, 4 => false
  | 1, 1 => !wide || rd != 0                                        -- C.JAL, C.ADDIW
  | 1, 3 => hi || rs2 != 0                                          -- C.LUI, C.ADDI16SP
  | 1, 4 =>                                                         -- shifts, C.ANDI, register arithmetic
    match (w.extractLsb' 10 2).toNat with
    | 0 | 1 => wide || !hi
    | 2 => true
    | _ => !hi || (wide && w.extractLsb' 6 1 == 0)
  | 2, 0 => wide || !hi                                             -- C.SLLI
  | 2, 2 => rd != 0                                                 -- C.LWSP
  | 2, 3 => !wide || rd != 0                                        -- C.FLWSP, C.LDSP
  | 2, 4 => hi || rs2 != 0 || rd != 0                               -- C.JR, C.MV, C.EBREAK, C.JALR, C.ADD
  | 3, _ => false
  | _, _ => true

/-- An instruction of the base ISA or of the M or A extension outside the SYSTEM opcode, at a width. PRESUMED from the
family: the spec puts them out of scope (00_scope.md R6) and gives no encoding of one (log 26). -/
def isBaseWord (x : Xlen) (w : InstrWord) : Bool :=
  let f3 := (fieldFunct3 w).toNat
  let f7 := (fieldFunct7 w).toNat
  let wide := x == .x64
  match (fieldOpcode w).toNat with
  | 0x37 | 0x17 | 0x6F => true                                          -- LUI, AUIPC, JAL
  | 0x67 => f3 == 0                                                     -- JALR
  | 0x63 => f3 != 2 && f3 != 3                                          -- branches
  | 0x03 => [0, 1, 2, 4, 5].contains f3 || (wide && (f3 == 3 || f3 == 6))   -- loads
  | 0x23 => decide (f3 ≤ 2) || (wide && f3 == 3)                        -- stores
  | 0x0F => decide (f3 ≤ 1)                                             -- FENCE, FENCE.I
  | 0x13 =>                                                             -- register and immediate
    let high := if wide then f7 / 2 * 2 else f7
    if f3 = 1 then high == 0 else if f3 = 5 then high == 0 || high == 0x20 else true
  | 0x1B => wide && (f3 == 0 || (f3 == 1 && f7 == 0) || (f3 == 5 && (f7 == 0 || f7 == 0x20)))
  | 0x33 => f7 == 0 || f7 == 1 || (f7 == 0x20 && (f3 == 0 || f3 == 5))   -- register and register, with M
  | 0x3B =>
    wide && ((f7 == 0 && [0, 1, 5].contains f3) || (f7 == 0x20 && (f3 == 0 || f3 == 5)) ||
      (f7 == 1 && [0, 4, 5, 6, 7].contains f3))
  | 0x2F =>                                                             -- A: LR has rs2 = 0
    (f3 == 2 || (wide && f3 == 3)) &&
      ([0, 1, 3, 4, 8, 12, 16, 20, 24, 28].contains (f7 / 4) || (f7 / 4 == 2 && fieldRs2 w == 0))
  | _ => false

/-- The privileged group, funct3 = 000 (30_encoding.md R187). -/
def decodePrivileged (w : InstrWord) : Except Reject Instr :=
  let f7 := fieldFunct7 w
  let rs1 := fieldRs1 w
  let rs2 := fieldRs2 w
  if fieldRd w ≠ 0 then .error .reservedSystem
  else if f7 = 0b0001001 then .ok (.sfenceVma rs1 rs2)
  else if f7 = 0b0010001 then .ok (.hfenceVvma rs1 rs2)
  else if f7 = 0b0110001 then .ok (.hfenceGvma rs1 rs2)
  else if rs1 ≠ 0 then .error .reservedSystem
  else if f7 = 0b0000000 ∧ rs2 = 0 then .ok .ecall
  else if f7 = 0b0000000 ∧ rs2 = 1 then .ok .ebreak
  else if f7 = 0b0001000 ∧ rs2 = 2 then .ok .sret
  else if f7 = 0b0011000 ∧ rs2 = 2 then .ok .mret
  else if f7 = 0b0001000 ∧ rs2 = 5 then .ok .wfi
  else .error .reservedSystem

/-- The virtual-machine load/store group, funct3 = 100 (30_encoding.md R188). -/
def decodeVirtMem (w : InstrWord) : Except Reject Instr :=
  let f7 := fieldFunct7 w
  let rd := fieldRd w
  let rs1 := fieldRs1 w
  let rs2 := fieldRs2 w
  if f7 = 0b0110000 ∧ rs2 = 0 then .ok (.hlvB rd rs1)
  else if f7 = 0b0110000 ∧ rs2 = 1 then .ok (.hlvBu rd rs1)
  else if f7 = 0b0110010 ∧ rs2 = 0 then .ok (.hlvH rd rs1)
  else if f7 = 0b0110010 ∧ rs2 = 1 then .ok (.hlvHu rd rs1)
  else if f7 = 0b0110010 ∧ rs2 = 3 then .ok (.hlvxHu rd rs1)
  else if f7 = 0b0110100 ∧ rs2 = 0 then .ok (.hlvW rd rs1)
  else if f7 = 0b0110100 ∧ rs2 = 1 then .ok (.hlvWu rd rs1)
  else if f7 = 0b0110100 ∧ rs2 = 3 then .ok (.hlvxWu rd rs1)
  else if f7 = 0b0110110 ∧ rs2 = 0 then .ok (.hlvD rd rs1)
  else if f7 = 0b0110001 ∧ rd = 0 then .ok (.hsvB rs2 rs1)
  else if f7 = 0b0110011 ∧ rd = 0 then .ok (.hsvH rs2 rs1)
  else if f7 = 0b0110101 ∧ rd = 0 then .ok (.hsvW rs2 rs1)
  else if f7 = 0b0110111 ∧ rd = 0 then .ok (.hsvD rs2 rs1)
  else .error .reservedSystem

/-- The SYSTEM major opcode: funct3 selects the group (30_encoding.md R182, R186). -/
def decodeSystem (w : InstrWord) : Except Reject Instr :=
  match (fieldFunct3 w).toNat with
  | 0 => decodePrivileged w
  | 1 => .ok (.csrrw (fieldRd w) (fieldCsr w) (fieldRs1 w))
  | 2 => .ok (.csrrs (fieldRd w) (fieldCsr w) (fieldRs1 w))
  | 3 => .ok (.csrrc (fieldRd w) (fieldCsr w) (fieldRs1 w))
  | 4 => decodeVirtMem w
  | 5 => .ok (.csrrwi (fieldRd w) (fieldCsr w) (fieldRs1 w))
  | 6 => .ok (.csrrsi (fieldRd w) (fieldCsr w) (fieldRs1 w))
  | _ => .ok (.csrrci (fieldRd w) (fieldCsr w) (fieldRs1 w))

/-- The instruction a 32-bit word is, or why it is none. -/
def decode (w : InstrWord) : Except Reject Instr :=
  if w.extractLsb' 0 2 ≠ 0b11 then .error .compressed
  else if fieldOpcode w = opcodeSystem then decodeSystem w
  else if isFloatWord w then .error .floatingPoint
  else .error .otherOpcode

/-- Four bytes as a word, the lowest-addressed byte in bits 7:0 (20_memory.md R146). -/
def wordOfBytes (b0 b1 b2 b3 : Byte) : InstrWord := b3 ++ b2 ++ b1 ++ b0

/-- The bytes of a word in the order memory holds them (20_memory.md R146). -/
def bytesOfWord (w : InstrWord) : List Byte :=
  [w.extractLsb' 0 8, w.extractLsb' 8 8, w.extractLsb' 16 8, w.extractLsb' 24 8]

/-- The first instruction of a list of bytes and the bytes after it. -/
def decodeBytes : List Byte → Except Reject (Instr × List Byte)
  | b0 :: b1 :: b2 :: b3 :: rest =>
    match decode (wordOfBytes b0 b1 b2 b3) with
    | .ok i => .ok (i, rest)
    | .error e => .error e
  | _ => .error .tooShort

/-- The instruction the decoder reads from a word of the opcode table, bits at and above `nbits` zero. -/
def decodeTableWord (nbits w : Nat) : Option Instr :=
  match decodeBytes (bytesOfWord (BitVec.ofNat 32 (w % 2 ^ nbits))) with
  | .ok (i, _) => some i
  | .error _ => none

/-! ## The encoder -/

/-- Format I-csr (30_encoding.md R181). -/
def encodeCsr (funct3 : BitVec 3) (rd : Reg) (csr : CsrAddr) (src : BitVec 5) : InstrWord :=
  csr ++ src ++ funct3 ++ rd ++ opcodeSystem

/-- Format R-sys (30_encoding.md R182). -/
def encodeSys (funct7 : BitVec 7) (rs2 rs1 : Reg) (funct3 : BitVec 3) (rd : Reg) : InstrWord :=
  funct7 ++ rs2 ++ rs1 ++ funct3 ++ rd ++ opcodeSystem

/-- The word of an instruction (30_encoding.md R186 to R188). -/
def encode : Instr → InstrWord
  | .csrrw rd csr rs1 => encodeCsr 0b001 rd csr rs1
  | .csrrs rd csr rs1 => encodeCsr 0b010 rd csr rs1
  | .csrrc rd csr rs1 => encodeCsr 0b011 rd csr rs1
  | .csrrwi rd csr uimm => encodeCsr 0b101 rd csr uimm
  | .csrrsi rd csr uimm => encodeCsr 0b110 rd csr uimm
  | .csrrci rd csr uimm => encodeCsr 0b111 rd csr uimm
  | .ecall => encodeSys 0b0000000 0 0 0b000 0
  | .ebreak => encodeSys 0b0000000 1 0 0b000 0
  | .sret => encodeSys 0b0001000 2 0 0b000 0
  | .mret => encodeSys 0b0011000 2 0 0b000 0
  | .wfi => encodeSys 0b0001000 5 0 0b000 0
  | .sfenceVma rs1 rs2 => encodeSys 0b0001001 rs2 rs1 0b000 0
  | .hfenceVvma rs1 rs2 => encodeSys 0b0010001 rs2 rs1 0b000 0
  | .hfenceGvma rs1 rs2 => encodeSys 0b0110001 rs2 rs1 0b000 0
  | .hlvB rd rs1 => encodeSys 0b0110000 0 rs1 0b100 rd
  | .hlvBu rd rs1 => encodeSys 0b0110000 1 rs1 0b100 rd
  | .hlvH rd rs1 => encodeSys 0b0110010 0 rs1 0b100 rd
  | .hlvHu rd rs1 => encodeSys 0b0110010 1 rs1 0b100 rd
  | .hlvxHu rd rs1 => encodeSys 0b0110010 3 rs1 0b100 rd
  | .hlvW rd rs1 => encodeSys 0b0110100 0 rs1 0b100 rd
  | .hlvWu rd rs1 => encodeSys 0b0110100 1 rs1 0b100 rd
  | .hlvxWu rd rs1 => encodeSys 0b0110100 3 rs1 0b100 rd
  | .hlvD rd rs1 => encodeSys 0b0110110 0 rs1 0b100 rd
  | .hsvB rs2 rs1 => encodeSys 0b0110001 rs2 rs1 0b100 0
  | .hsvH rs2 rs1 => encodeSys 0b0110011 rs2 rs1 0b100 0
  | .hsvW rs2 rs1 => encodeSys 0b0110101 rs2 rs1 0b100 0
  | .hsvD rs2 rs1 => encodeSys 0b0110111 rs2 rs1 0b100 0

/-! ## The opcode table: the "match" and "mask" of each row of spec/opcode_table.json -/

/-- The match value of an instruction's row (30_encoding.md R186 to R188). -/
def Instr.rowMatch : Instr → InstrWord
  | .csrrw _ _ _ => 0x00001073
  | .csrrs _ _ _ => 0x00002073
  | .csrrc _ _ _ => 0x00003073
  | .csrrwi _ _ _ => 0x00005073
  | .csrrsi _ _ _ => 0x00006073
  | .csrrci _ _ _ => 0x00007073
  | .ecall => 0x00000073
  | .ebreak => 0x00100073
  | .sret => 0x10200073
  | .mret => 0x30200073
  | .wfi => 0x10500073
  | .sfenceVma _ _ => 0x12000073
  | .hfenceVvma _ _ => 0x22000073
  | .hfenceGvma _ _ => 0x62000073
  | .hlvB _ _ => 0x60004073
  | .hlvBu _ _ => 0x60104073
  | .hlvH _ _ => 0x64004073
  | .hlvHu _ _ => 0x64104073
  | .hlvxHu _ _ => 0x64304073
  | .hlvW _ _ => 0x68004073
  | .hlvWu _ _ => 0x68104073
  | .hlvxWu _ _ => 0x68304073
  | .hlvD _ _ => 0x6C004073
  | .hsvB _ _ => 0x62004073
  | .hsvH _ _ => 0x66004073
  | .hsvW _ _ => 0x6A004073
  | .hsvD _ _ => 0x6E004073

/-- The mask of an instruction's row (30_encoding.md R186 to R188). -/
def Instr.rowMask : Instr → InstrWord
  | .csrrw _ _ _ | .csrrs _ _ _ | .csrrc _ _ _ => 0x0000707F
  | .csrrwi _ _ _ | .csrrsi _ _ _ | .csrrci _ _ _ => 0x0000707F
  | .ecall | .ebreak | .sret | .mret | .wfi => 0xFFFFFFFF
  | .sfenceVma _ _ | .hfenceVvma _ _ | .hfenceGvma _ _ => 0xFE007FFF
  | .hlvB _ _ | .hlvBu _ _ | .hlvH _ _ | .hlvHu _ _ | .hlvxHu _ _ => 0xFFF0707F
  | .hlvW _ _ | .hlvWu _ _ | .hlvxWu _ _ | .hlvD _ _ => 0xFFF0707F
  | .hsvB _ _ | .hsvH _ _ | .hsvW _ _ | .hsvD _ _ => 0xFE007FFF

end Sys2Proof
end

