-- ==== Sys2Proof/Machine/Bits.lean ====
section
/-! DEFINITION. Bits and fields of register images, in the notation of 00_scope.md R8, R9. -/

namespace Sys2Proof.Machine

open Sys2Proof

/-- `r[i]` (00_scope.md R8). -/
def bit (w : Word) (i : Nat) : Bool := w.getLsbD i

/-- `r[lo+len-1:lo]` as an unsigned integer (00_scope.md R8). -/
def field (w : Word) (lo len : Nat) : Nat := (w.extractLsb' lo len).toNat

/-- `old` with the bits of `mask` taken from `new`. -/
def merge (mask new old : Word) : Word := (old &&& ~~~mask) ||| (new &&& mask)

/-- The mask of one bit. -/
def bitMask (i : Nat) : Word := 1#64 <<< i

/-- `w` with bit `i` set to `b`. -/
def setBit (w : Word) (i : Nat) (b : Bool) : Word :=
  merge (bitMask i) (if b then bitMask i else 0) w

/-- The mask of the field of `len` bits at `lo`. -/
def fieldMask (lo len : Nat) : Word := BitVec.ofNat 64 (2 ^ len - 1) <<< lo

/-- `w` with the field of `len` bits at `lo` set to `n`. -/
def setField (w : Word) (lo len n : Nat) : Word :=
  merge (fieldMask lo len) (BitVec.ofNat 64 n <<< lo) w

/-- A value at a width: 32-bit values are held zero-extended. -/
def fit (x : Xlen) (w : Word) : Word :=
  match x with
  | .x32 => w &&& 0xFFFFFFFF
  | .x64 => w

/-- `sext_64` of the low `n` bits (00_scope.md R9). -/
def signExtendFrom (n : Nat) (w : Word) : Word := (w.setWidth n).signExtend 64

/-- `zext_64` of the low `n` bits (00_scope.md R9). -/
def zeroExtendFrom (n : Nat) (w : Word) : Word := (w.setWidth n).setWidth 64

/-- Width code 1 is 32 bits, every other code 64 (10_state.md R34, G3). -/
def widthOfCode (n : Nat) : Xlen := if n = 1 then .x32 else .x64

/-- The code of a width (10_state.md R34, G3). -/
def codeOfWidth : Xlen → Nat
  | .x32 => 1
  | .x64 => 2

end Sys2Proof.Machine
end

