-- ==== Sys2Proof/Config.lean ====
section
/-! DEFINITION. What an implementation fixes (00_scope.md R7) as plain data, held in the machine's state so that a
statement about every state is a statement about every implementation; and the free values: opaque constants with no
body, so that nothing can be proved of a value they give (00_scope.md R10, `draw`). -/

namespace Sys2Proof

/-- A range of supervisor physical addresses that is memory (20_memory.md R155, parameter `MEMMAP`). -/
structure Region where
  base : Nat
  size : Nat
  deriving DecidableEq, Repr, Inhabited

/-- The instruction alignment (00_scope.md R7, parameter `IALIGN`). -/
inductive Ialign where
  | i16
  | i32
  deriving DecidableEq, Repr, Inhabited

/-- The implementation parameters of 00_scope.md R7. No step of the machine writes them. -/
structure Config where
  /-- `HSXLEN`; also the width of M-mode, which the spec does not distinguish. -/
  hsxlen : Xlen
  /-- `VSXL_legal`, encodings of 10_state.md R34; used at HSXLEN = 64. -/
  vsxlLegal : List Nat
  /-- Whether UXL is a read-only copy of the supervisor's width (10_state.md R109). -/
  uxlCopy : Bool
  /-- `UXL_legal`, used when UXL is not a copy. The spec gives both for `vsstatus.UXL`; that they serve the HS-level UXL
  too is the model's choice (DESIGN CHOICE, log 21). -/
  uxlLegal : List Nat
  /-- `GEILEN`. -/
  geilen : Nat
  /-- `VMIDLEN`. -/
  vmidlen : Nat
  /-- `HGATP_MODES`, encodings of 10_state.md R99. -/
  hgatpModes : List Nat
  /-- `VSATP_MODES`, encodings of 10_state.md R127, Sv32 being for a VSXLEN of 32; the same set for `satp` (log 15). -/
  vsatpModes : List Nat
  /-- The platform's physical address width (20_memory.md R141): PPN bits of `hgatp` and `satp` above it are WARL
  (40_csr_access.md R227, log 23). -/
  paBits : Nat
  /-- The number of low bits of `vsatp.PPN` that a write stores as written, the bits above being WARL (log 23). -/
  vsatpPpnBits : Nat
  /-- The number of low bits of ASID that a write stores as written, the bits above being WARL (log 23). -/
  asidlen : Nat
  /-- `VSBE_writable`. -/
  vsbeWritable : Bool
  /-- `UBE_copy`. -/
  ubeCopy : Bool
  /-- `IALIGN`. -/
  ialign : Ialign
  /-- `HCOUNTEREN_MASK`. -/
  hcounterenMask : BitVec 32
  /-- Whether `HTINST_VALUES` and `HTINST_legal` hold more than 0 (60_exceptions.md R356). -/
  htinstNonzero : Bool
  /-- `MISALIGNED_OK` (20_memory.md R148). -/
  misalignedOk : Bool
  /-- Whether the implementation sets accessed and dirty bits itself (20_memory.md R152). -/
  hwUpdatesAD : Bool
  /-- `RESET_PC`. -/
  resetPc : Word
  /-- `MEMMAP`: the regions that are memory. -/
  memMap : List Region
  deriving DecidableEq, Repr, Inhabited

/-- VMIDMAX (10_state.md R104). -/
def Config.vmidMax (c : Config) : Nat :=
  match c.hsxlen with
  | .x32 => 7
  | .x64 => 14

/-- The constraints 00_scope.md R7 puts on the parameters. -/
def Config.valid (c : Config) : Bool :=
  decide (c.geilen < c.hsxlen.bits) &&
  decide (c.vmidlen ≤ c.vmidMax) &&
  !c.vsxlLegal.isEmpty && c.vsxlLegal.all (fun n => n == 1 || n == 2) &&
  !c.uxlLegal.isEmpty && c.uxlLegal.all (fun n => n == 1 || n == 2) &&
  c.hgatpModes.contains 0 && c.vsatpModes.contains 0 &&
  (match c.hsxlen with
   | .x32 => c.hgatpModes.all (fun m => m ≤ 1) && c.vsatpModes.all (fun m => m ≤ 1) &&
             decide (c.resetPc.toNat < 2 ^ 32) && decide (c.paBits ≤ 34)
   | .x64 => c.hgatpModes.all (fun m => m == 0 || m == 8 || m == 9) &&
             c.vsatpModes.all (fun m => m == 0 || m == 1 || m == 8 || m == 9) && decide (c.paBits ≤ 56)) &&
  decide (14 ≤ c.paBits) &&
  (match c.ialign with
   | .i16 => c.resetPc.toNat % 2 == 0
   | .i32 => c.resetPc.toNat % 4 == 0)

/-- The implementation of State.reset: the defaults of 00_scope.md R7 and, where they leave a parameter open, the
values 95_test_vectors.md assumes. DESIGN CHOICE, unsafe only for statements about State.reset (log 1, 4, 22, 23). -/
def Config.default : Config where
  hsxlen := .x64
  vsxlLegal := [2]
  uxlCopy := true
  uxlLegal := [2]
  geilen := 3
  vmidlen := 7
  hgatpModes := [0, 8]
  vsatpModes := [0, 8, 9]
  paBits := 56
  vsatpPpnBits := 44
  asidlen := 16
  vsbeWritable := false
  ubeCopy := true
  ialign := .i16
  hcounterenMask := 0xFFFFFFFF
  htinstNonzero := false
  misalignedOk := false
  hwUpdatesAD := false
  resetPc := 0x80000000
  memMap := [⟨0, 2 ^ 56⟩]

/-- The levels the platform drives into the hart: `hgeip_in` (10_state.md R81), `PLAT_VSEI`, `PLAT_VSTI` (R70, R71) and
the base `mip` sources (92_eei_decisions.md D17). -/
structure Platform where
  hgeipIn : Word
  vsei : Bool
  vsti : Bool
  mei : Bool
  mti : Bool
  msi : Bool
  sei : Bool
  deriving DecidableEq, Repr, Inhabited

/-- Which cached copy of a page-table entry: the stage that read it, the tags of 20_memory.md R165, the page the
translation was for and the level of the table. -/
inductive TlbStage where
  | single
  | vsStage
  | gStage
  deriving DecidableEq, Repr, Inhabited

structure TlbKey where
  stage : TlbStage
  vmid : Nat
  asid : Nat
  page : Nat
  level : Nat
  deriving DecidableEq, Repr, Inhabited

/-! ## Free values. Each is applied to the step's index, so that every step draws anew (log 6). -/

/-- Whether the trap value of an illegal instruction, virtual instruction or breakpoint exception is written or left 0
(40_csr_access.md R237, 42_privileged.md R299, 92_eei_decisions.md D29). -/
opaque Config.drawTval : Nat → Bool

/-- Whether `htval` receives the shifted guest physical address or 0 (60_exceptions.md R355). -/
opaque Config.drawHtval : Nat → Bool

/-- Whether `htinst` receives a nonzero value where one is permitted (60_exceptions.md R356). -/
opaque Config.drawHtinst : Nat → Bool

/-- Whether a WFI exceeds its time limit (42_privileged.md R287, R288, 92_eei_decisions.md D16). -/
opaque Config.wfiTimeout : Nat → Bool

/-- Whether a translation uses its cached copy of a page-table entry (20_memory.md R160). -/
opaque Config.useCached : Nat → TlbKey → Bool

/-- The platform's levels after step `n` (92_eei_decisions.md D17). -/
opaque Config.platformAt : Nat → Platform

/-- The value counter `i` is drawn at after step `n` (60_exceptions.md R365, 92_eei_decisions.md D31). -/
opaque Config.counterAt : Nat → Nat → BitVec 64

/-- Upper half of a general register written at XLEN = 32 on a 64-bit hart (91_not_in_source.md N12). -/
opaque Config.upperOfReg : Nat → BitVec 32

/-- Upper half a 32-bit VS CSR shows to a 64-bit CSR instruction (40_csr_access.md R238). -/
opaque Config.upperOfVsCsr : Nat → BitVec 32

/-! ## Free values of the implementation: WARL legalizations (00_scope.md R11) and legal sets. -/

/-- Whether `htval` can hold a nonzero value (10_state.md R93, parameter `HTVAL_legal`). -/
opaque Config.htvalHolds : Word → Bool

/-- Whether `htinst` can hold a nonzero value (10_state.md R96, parameter `HTINST_legal`). -/
opaque Config.htinstHolds : Word → Bool

/-- `legalize_htval(written, old)` before it is limited to the legal set. -/
opaque Config.legalizeHtval : Word → Word → Word

/-- `legalize_htinst(written, old)` before it is limited to the legal set. -/
opaque Config.legalizeHtinst : Word → Word → Word

/-- Which member of `VSXL_legal` an illegal write leaves in `hstatus.VSXL`. -/
opaque Config.legalizeVsxl : Word → Word → Nat

/-- Which member of `UXL_legal` an illegal write leaves in a UXL field, of either status register (log 21). -/
opaque Config.legalizeUxl : Word → Word → Nat

/-- Which member of `HGATP_MODES` an unsupported write leaves in `hgatp.MODE`. -/
opaque Config.legalizeHgatpMode : Word → Word → Nat

/-- The fields of which only the low bits are sure to be implemented (log 23). -/
inductive WarlField where
  | hgatpPpn
  | satpPpn
  | satpAsid
  | vsatpPpn
  | vsatpAsid
  deriving DecidableEq, Repr, Inhabited

/-- Whether a field can hold these nonzero bits above its stored ones: its legal set (log 23). -/
opaque Config.upperHolds : WarlField → Nat → Bool

/-- The bits above the stored ones that a write of others leaves, before they are limited to the legal set. -/
opaque Config.legalizeUpper : WarlField → Word → Word → Nat

/-- What `scause` or `mcause` reads after a write, of the first value over the second, of a code the spec does not list: the
spec states no result there (DESIGN CHOICE, log 11). -/
opaque Config.causeWritten : Word → Word → Word

/-- Which member of `VSATP_MODES` an unsupported direct write leaves in `vsatp.MODE`. -/
opaque Config.legalizeVsatpMode : Word → Word → Nat

/-- Which privilege an illegal write leaves in `mstatus.MPP`. -/
opaque Config.legalizeMpp : Word → Word → Nat

end Sys2Proof
end

