-- ==== Sys2Proof/Machine/State.lean ====
section
/-! DEFINITION. The machine's state as plain data: every piece of state 10_state.md, 20_memory.md and 60_exceptions.md
give the hart (INVENTORY.md, State), the reasons a step can stop, and the state right after reset. -/

namespace Sys2Proof.Machine

open Sys2Proof

/-- The nominal privilege (10_state.md R21). -/
inductive Priv where
  | u
  | s
  | m
  deriving DecidableEq, Repr, Inhabited

/-- The hypervisor CSRs that have storage (10_state.md R26, R72). `hie` is part of `MachCsrs.mie` (R67). -/
structure HypCsrs where
  hstatus : Word
  hedeleg : Word
  hideleg : Word
  hvip : Word
  hgeie : Word
  hcounteren : BitVec 32
  /-- The 64-bit delta of `htimedelta` and `htimedeltah` (10_state.md R89 to R91). -/
  htimedelta : BitVec 64
  htval : Word
  htinst : Word
  hgatp : Word
  deriving DecidableEq, Repr, Inhabited

/-- The VS CSRs that have storage (10_state.md R27). `vsip` and `vsie` are aliases (R118). -/
structure VsCsrs where
  vsstatus : Word
  vstvec : Word
  vsscratch : Word
  vsepc : Word
  vscause : Word
  vstval : Word
  vsatp : Word
  deriving DecidableEq, Repr, Inhabited

/-- The HS-level supervisor CSRs that have storage of their own (10_state.md R130). `sstatus`, `sip` and `sie` are views of
`mstatus`, `mip` and `mie` (log 8). -/
structure SupCsrs where
  stvec : Word
  sscratch : Word
  sepc : Word
  scause : Word
  stval : Word
  satp : Word
  scounteren : BitVec 32
  deriving DecidableEq, Repr, Inhabited

/-- The machine-level CSRs (10_state.md R130, 60_exceptions.md R354). `mip` holds the software-written bits 9, 5, 1. -/
structure MachCsrs where
  misa : Word
  /-- `mstatus`, with `mstatush` in bits 63:32 on RV32 (60_exceptions.md R354). -/
  mstatus : Word
  medeleg : Word
  mideleg : Word
  mie : Word
  mip : Word
  mtvec : Word
  mscratch : Word
  mepc : Word
  mcause : Word
  mtval : Word
  mtval2 : Word
  mtinst : Word
  mcounteren : BitVec 32
  deriving DecidableEq, Repr, Inhabited

/-- A cached copy of a page-table entry (10_state.md R137 (b)), with the page it was read from: a guest physical page for
an entry of the VS-stage, which was found through the G-stage (42_privileged.md R294). -/
structure TlbEntry where
  key : TlbKey
  pte : Word
  table : Nat
  deriving DecidableEq, Repr, Inhabited

/-- The machine. -/
structure State where
  /-- The implementation's parameters; no step writes them (log 1). -/
  cfg : Config
  /-- x0 to x31; entry 0 is never read (10_state.md R24). -/
  regs : Vector Word 32
  /-- The address of the current instruction (10_state.md R25). -/
  pc : Word
  /-- The nominal privilege (10_state.md R21). -/
  priv : Priv
  /-- The virtualization mode V (10_state.md R20). -/
  v : Bool
  hyp : HypCsrs
  vs : VsCsrs
  sup : SupCsrs
  mach : MachCsrs
  /-- `cycle` (0), `time` (1), `instret` (2), `hpmcounter`n (n) (10_state.md R130). -/
  counters : Vector (BitVec 64) 32
  /-- Memory by supervisor physical address, in the canonical form of Machine/Memory.lean (20_memory.md R140). -/
  mem : List Host.Cell
  /-- The addresses stored to since reset, strictly rising (20_memory.md R173). -/
  storedTo : List Nat
  /-- Cached translations (10_state.md R137). -/
  tlb : List TlbEntry
  /-- The inputs (10_state.md R137). -/
  plat : Platform
  /-- The model's own counter of steps, which the free values are applied to (log 6). -/
  tick : Nat
  deriving DecidableEq, Repr

/-- Why the machine stops. -/
inductive Fault where
  /-- Raised by the fetch, from an address the hart stored to since reset: 20_memory.md R173 and 93 U22 make such a fetch
  `fault`, and the table has no FENCE.I that could allow it. Safe: hardware goes on with an old or a new instruction. -/
  | fetchAfterStore (addr : Nat)
  deriving DecidableEq, Repr

/-- Why a step gives an instruction no meaning. -/
inductive Refusal where
  /-- Raised by exec for an instruction with no meaning yet, by its mnemonic. Safe. -/
  | notModelled (mnemonic : String)
  /-- Raised by a CSR instruction that writes an illegal value to a WLRL field, `hstatus.VGEIN` or `vscause` (00_scope.md
  R12, 40_csr_access.md R227, 92 D28, 93 U4: refused). Safe. -/
  | wlrlIllegalValue (csr : String)
  /-- Raised by a CSR instruction that would clear `misa` bit 7: operation without the extension is out of scope
  (00_scope.md R3, R6, 93 U17). Safe. -/
  | misaClearsH
  /-- Raised by the step at an instruction of the base ISA or of its M, A, F, D or C extension, which are out of scope
  (00_scope.md R6). Safe. -/
  | outOfScope (word : InstrWord)
  deriving DecidableEq, Repr

/-- The state right after reset of an implementation `c`: V = 0, M-mode, pc at `RESET_PC`, `mstatus.MIE` and `MPRV` 0, `misa`
with H, mideleg bits 12, 10, 6, 2 set (70_reset_and_hazards.md R400, R402, R403, 60_exceptions.md R332). Every other
value is the model's: zero, or the width code where a field cannot be zero (DESIGN CHOICE, unsafe, log 2, 3, 5, 7). -/
def State.resetOf (c : Config) : State where
  cfg := c
  regs := Vector.replicate 32 0
  pc := c.resetPc
  priv := .m
  v := false
  hyp :=
    { hstatus := match c.hsxlen with | .x32 => 0 | .x64 => BitVec.ofNat 64 (c.vsxlLegal.headD 2 * 2 ^ 32)
      hedeleg := 0, hideleg := 0, hvip := 0, hgeie := 0, hcounteren := 0, htimedelta := 0, htval := 0, htinst := 0
      hgatp := 0 }
  vs :=
    { vsstatus := match c.hsxlen with | .x32 => 0 | .x64 => BitVec.ofNat 64 (c.uxlLegal.headD 2 * 2 ^ 32)
      vstvec := 0, vsscratch := 0, vsepc := 0, vscause := 0, vstval := 0, vsatp := 0 }
  sup := { stvec := 0, sscratch := 0, sepc := 0, scause := 0, stval := 0, satp := 0, scounteren := 0 }
  mach :=
    { misa := match c.hsxlen with | .x32 => 0x40140180 | .x64 => 0x8000000000140180
      mstatus := match c.hsxlen with | .x32 => 0 | .x64 => BitVec.ofNat 64 (c.uxlLegal.headD 2 * 2 ^ 32)
      medeleg := 0, mideleg := 0x1444, mie := 0, mip := 0, mtvec := 0, mscratch := 0, mepc := 0, mcause := 0
      mtval := 0, mtval2 := 0, mtinst := 0, mcounteren := 0 }
  counters := Vector.replicate 32 0
  mem := []
  storedTo := []
  tlb := []
  plat := ⟨0, false, false, false, false, false, false⟩
  tick := 0

/-- The machine right after reset. -/
def State.reset : State := State.resetOf Config.default

end Sys2Proof.Machine
end

