-- ==== Sys2Proof/Machine/Fields.lean ====
section
/-! DEFINITION. The named fields of the status and translation registers and the effective widths they select
(10_state.md R33, R98, R108, R127, R130). -/

namespace Sys2Proof.Machine

open Sys2Proof

/-! ## hstatus (10_state.md R33) -/

def State.vtsr (s : State) : Bool := bit s.hyp.hstatus 22
def State.vtw (s : State) : Bool := bit s.hyp.hstatus 21
def State.vtvm (s : State) : Bool := bit s.hyp.hstatus 20
def State.vgein (s : State) : Nat := field s.hyp.hstatus 12 6
def State.hu (s : State) : Bool := bit s.hyp.hstatus 9
def State.spvp (s : State) : Bool := bit s.hyp.hstatus 8
def State.spv (s : State) : Bool := bit s.hyp.hstatus 7
def State.gva (s : State) : Bool := bit s.hyp.hstatus 6
def State.vsbe (s : State) : Bool := bit s.hyp.hstatus 5
def State.vsxl (s : State) : Nat := field s.hyp.hstatus 32 2

/-! ## mstatus (10_state.md R130, 60_exceptions.md R354); bits 38 and 39 are mstatush bits 6 and 7 on RV32 -/

def State.mstatusTsr (s : State) : Bool := bit s.mach.mstatus 22
def State.mstatusTw (s : State) : Bool := bit s.mach.mstatus 21
def State.mstatusTvm (s : State) : Bool := bit s.mach.mstatus 20
def State.mstatusMprv (s : State) : Bool := bit s.mach.mstatus 17
def State.mstatusMie (s : State) : Bool := bit s.mach.mstatus 3
def State.mstatusMpp (s : State) : Nat := field s.mach.mstatus 11 2
def State.mstatusMpv (s : State) : Bool := bit s.mach.mstatus 39
def State.mstatusGva (s : State) : Bool := bit s.mach.mstatus 38

/-! ## sstatus, the HS-level one: a view of mstatus (10_state.md R108, R130, log 8) -/

def State.sie (s : State) : Bool := bit s.mach.mstatus 1
def State.spie (s : State) : Bool := bit s.mach.mstatus 5
def State.spp (s : State) : Bool := bit s.mach.mstatus 8
def State.sum (s : State) : Bool := bit s.mach.mstatus 18
def State.mxr (s : State) : Bool := bit s.mach.mstatus 19
def State.fs (s : State) : Nat := field s.mach.mstatus 13 2

/-! ## vsstatus (10_state.md R108) -/

def State.vsSie (s : State) : Bool := bit s.vs.vsstatus 1
def State.vsSpie (s : State) : Bool := bit s.vs.vsstatus 5
def State.vsSpp (s : State) : Bool := bit s.vs.vsstatus 8
def State.vsSum (s : State) : Bool := bit s.vs.vsstatus 18
def State.vsMxr (s : State) : Bool := bit s.vs.vsstatus 19
def State.vsFs (s : State) : Nat := field s.vs.vsstatus 13 2

/-- `vsstatus.UBE`: a read-only copy of `hstatus.VSBE` when the implementation says so (10_state.md R112). -/
def State.vsUbe (s : State) : Bool := if s.cfg.ubeCopy then s.vsbe else bit s.vs.vsstatus 6

/-! ## Effective widths (10_state.md R24, R34, R109) -/

/-- VSXLEN (10_state.md R34). -/
def State.vsxlen (s : State) : Xlen :=
  match s.cfg.hsxlen with
  | .x32 => .x32
  | .x64 => widthOfCode s.vsxl

/-- The UXL code in effect in VU-mode, at VSXLEN = 64 (10_state.md R109). -/
def State.vsUxl (s : State) : Nat :=
  if s.cfg.uxlCopy then s.vsxl else field s.vs.vsstatus 32 2

/-- VUXLEN (10_state.md R109). -/
def State.vuxlen (s : State) : Xlen :=
  match s.vsxlen with
  | .x32 => .x32
  | .x64 => widthOfCode s.vsUxl

/-- The UXL code of the HS-level `sstatus`, at HSXLEN = 64 (10_state.md R108, R109, R130): the parameters of `vsstatus.UXL`
serve it too (DESIGN CHOICE, log 21). -/
def State.hsUxl (s : State) : Nat :=
  if s.cfg.uxlCopy then codeOfWidth s.cfg.hsxlen else field s.mach.mstatus 32 2

/-- XLEN in U-mode (10_state.md R24). -/
def State.uxlen (s : State) : Xlen :=
  match s.cfg.hsxlen with
  | .x32 => .x32
  | .x64 => widthOfCode s.hsUxl

/-- The effective XLEN of a mode (10_state.md R24). -/
def State.xlenOf (s : State) (v : Bool) (p : Priv) : Xlen :=
  match v, p with
  | false, .u => s.uxlen
  | false, .s => s.cfg.hsxlen
  | true, .u => s.vuxlen
  | true, .s => s.vsxlen
  | _, .m => s.cfg.hsxlen

/-- The effective XLEN of the current mode. -/
def State.xlen (s : State) : Xlen := s.xlenOf s.v s.priv

/-! ## hgatp (10_state.md R98) and satp, vsatp (R127) -/

def State.hgatpMode (s : State) : Nat :=
  match s.cfg.hsxlen with
  | .x32 => field s.hyp.hgatp 31 1
  | .x64 => field s.hyp.hgatp 60 4

def State.hgatpVmid (s : State) : Nat :=
  match s.cfg.hsxlen with
  | .x32 => field s.hyp.hgatp 22 7
  | .x64 => field s.hyp.hgatp 44 14

def State.hgatpPpn (s : State) : Nat :=
  match s.cfg.hsxlen with
  | .x32 => field s.hyp.hgatp 0 22
  | .x64 => field s.hyp.hgatp 0 44

/-- MODE of a `satp`-shaped register at a width (10_state.md R127). -/
def satpMode (x : Xlen) (w : Word) : Nat :=
  match x with
  | .x32 => field w 31 1
  | .x64 => field w 60 4

/-- ASID of a `satp`-shaped register at a width (10_state.md R127). -/
def satpAsid (x : Xlen) (w : Word) : Nat :=
  match x with
  | .x32 => field w 22 9
  | .x64 => field w 44 16

/-- PPN of a `satp`-shaped register at a width (10_state.md R127). -/
def satpPpn (x : Xlen) (w : Word) : Nat :=
  match x with
  | .x32 => field w 0 22
  | .x64 => field w 0 44

/-! ## Privileges (10_state.md R21) -/

/-- The encoding of a privilege: U = 0, S = 1, M = 3 (10_state.md R21, G1). -/
def Priv.code : Priv → Nat
  | .u => 0
  | .s => 1
  | .m => 3

/-- The privilege of an encoding; 2 encodes none and no write of `mstatus.MPP` leaves it (log 34). -/
def privOfCode (n : Nat) : Priv :=
  if n = 3 then .m else if n = 1 then .s else .u

/-- The privilege an SPP bit names: 1 is S, 0 is U (10_state.md R108). -/
def privOfBit (b : Bool) : Priv := if b then .s else .u

end Sys2Proof.Machine
end

