-- ==== Sys2Proof/Machine/Flags.lean ====
section
/-! DEFINITION. The architecture has no flags or condition codes (10_state.md R25). What stands here are the status bits
the hardware computes from others at the moment they are looked at (10_state.md R68 to R72, R111, R118,
60_exceptions.md R327). -/

namespace Sys2Proof.Machine

open Sys2Proof

/-- The word whose listed bits are set as given. -/
def bitsOf : List (Nat × Bool) → Word
  | [] => 0
  | (i, b) :: rest => (if b then bitMask i else 0) ||| bitsOf rest

/-! ## Guest external interrupts (10_state.md R80 to R84) -/

/-- Bits GEILEN:1, the implemented ones of `hgeip` and `hgeie` (10_state.md R82). -/
def geiMask (c : Config) : Word := fit c.hsxlen (BitVec.ofNat 64 (2 ^ (c.geilen + 1) - 2))

/-- `hgeip` as read: the implemented bits of the input `hgeip_in` (10_state.md R81, R82). -/
def State.hgeip (s : State) : Word := s.plat.hgeipIn &&& geiMask s.cfg

/-- `hgeie` as read: its implemented bits (10_state.md R82). -/
def State.hgeieBits (s : State) : Word := s.hyp.hgeie &&& geiMask s.cfg

/-! ## hip (10_state.md R66 to R72) -/

/-- `hip.SGEIP` (10_state.md R68). -/
def State.sgeip (s : State) : Bool := (s.hgeip &&& s.hgeieBits) != 0

/-- `hip.VSEIP` (10_state.md R70). -/
def State.vseip (s : State) : Bool := bit s.hyp.hvip 10 || bit s.hgeip s.vgein || s.plat.vsei

/-- `hip.VSTIP` (10_state.md R71). -/
def State.vstip (s : State) : Bool := bit s.hyp.hvip 6 || s.plat.vsti

/-- `hip.VSSIP` (10_state.md R71). -/
def State.vssip (s : State) : Bool := bit s.hyp.hvip 2

/-- `hip` as read (10_state.md R72). -/
def State.hip (s : State) : Word :=
  bitsOf [(12, s.sgeip), (10, s.vseip), (6, s.vstip), (2, s.vssip)]

/-- The bits of `mie` that `hie` holds: 10, 6, 2, and 12 when GEILEN > 0 (10_state.md R65, R66). -/
def hieMask (c : Config) : Word := if c.geilen = 0 then 0x0444 else 0x1444

/-- `hie` as read (10_state.md R66, R67). -/
def State.hie (s : State) : Word := s.mach.mie &&& hieMask s.cfg

/-! ## mip, sip, vsip, vsie -/

/-- `mip` as read: the machine and supervisor pending bits and those of `hip` (10_state.md R67, 60_exceptions.md R329). -/
def State.mipBits (s : State) : Word :=
  s.hip ||| bitsOf
    [(11, s.plat.mei), (9, bit s.mach.mip 9 || s.plat.sei), (7, s.plat.mti), (5, bit s.mach.mip 5), (3, s.plat.msi),
     (1, bit s.mach.mip 1)]

/-- The writable bits of `mie` (10_state.md R65, 60_exceptions.md R325, R329). -/
def mieMask (c : Config) : Word := 0x0AAA ||| hieMask c

/-- `mie` as read. -/
def State.mieBits (s : State) : Word := s.mach.mie &&& mieMask s.cfg

/-- Bits 9, 5, 1, those of the HS-level `sip` and `sie` (10_state.md R63, 60_exceptions.md R329). -/
def supMask : Word := 0x0222

/-- The HS-level `sip` as read (60_exceptions.md R329). -/
def State.sip (s : State) : Word := s.mipBits &&& supMask

/-- The HS-level `sie` as read (60_exceptions.md R329). -/
def State.sieBits (s : State) : Word := s.mach.mie &&& supMask

/-- Bits 10, 6, 2: the standard VS-level interrupts (10_state.md R54, R60). -/
def vsMask : Word := 0x0444

/-- `hideleg` as read (10_state.md R54). -/
def State.hidelegBits (s : State) : Word := s.hyp.hideleg &&& vsMask

/-- `hvip` as read (10_state.md R60). -/
def State.hvipBits (s : State) : Word := s.hyp.hvip &&& vsMask

/-- `mideleg` as read: bits 12, 10, 6, 2 are read-only one (60_exceptions.md R332). -/
def State.midelegBits (s : State) : Word := (s.mach.mideleg &&& supMask) ||| 0x1444

/-- The writable bits of `hedeleg` (10_state.md R51 to R53, 40_csr_access.md R227). -/
def hedelegMask (c : Config) : Word :=
  match c.ialign with
  | .i16 => 0xB1FE
  | .i32 => 0xB1FF

/-- `hedeleg` as read. -/
def State.hedelegBits (s : State) : Word := s.hyp.hedeleg &&& hedelegMask s.cfg

/-- The writable bits of `medeleg`: every code of 60_exceptions.md R320 but 11, which always goes to M-mode (R344). -/
def medelegMask : Word := 0x00F0B7FF

/-- `medeleg` as read. -/
def State.medelegBits (s : State) : Word := s.mach.medeleg &&& medelegMask

/-- `vsip` as read: bit k shows bit j of `hip` when `hideleg[j]` is set, for (k, j) in (9, 10), (5, 6), (1, 2)
(10_state.md R118). -/
def State.vsip (s : State) : Word := (s.hidelegBits &&& s.hip) >>> 1

/-- `vsie` as read (10_state.md R118). -/
def State.vsie (s : State) : Word := (s.hidelegBits &&& s.mach.mie) >>> 1

/-! ## SD (10_state.md R111) -/

/-- SD of a status register: FS or XS is 3 (10_state.md R108, R111). -/
def statusSd (w : Word) : Bool := field w 13 2 == 3 || field w 15 2 == 3

/-- The number of the top bit of a register at a width. -/
def topBit (x : Xlen) : Nat := x.bits - 1

end Sys2Proof.Machine
end

