-- ==== Sys2Proof/Machine/Memory.lean ====
section
/-! DEFINITION. Memory as a list of cells in one canonical form: addresses strictly rising, no cell equal to what an
unlisted address reads as (20_memory.md R140), and the record of addresses stored to (R173). -/

namespace Sys2Proof.Machine

open Sys2Proof

/-- What an unlisted byte of memory reads as. The spec gives no reset contents: DESIGN CHOICE, unsafe (log 5). -/
def unlistedByte : Byte := 0

abbrev Memory := List Host.Cell

/-- The byte at an address. -/
def Memory.readByte : Memory → Nat → Byte
  | [], _ => unlistedByte
  | (k, b) :: rest, a => if k = a then b else Memory.readByte rest a

/-- Memory with one byte written, in canonical form. -/
def Memory.writeByte : Memory → Nat → Byte → Memory
  | [], a, b => if b = unlistedByte then [] else [(a, b)]
  | (k, c) :: rest, a, b =>
    if a < k then (if b = unlistedByte then (k, c) :: rest else (a, b) :: (k, c) :: rest)
    else if a = k then (if b = unlistedByte then rest else (a, b) :: rest)
    else (k, c) :: Memory.writeByte rest a b

/-- Every cell from address `lo` up, strictly rising, none equal to the unlisted byte. -/
def Memory.wfFrom : Nat → Memory → Bool
  | _, [] => true
  | lo, (k, b) :: rest => decide (lo ≤ k) && b != unlistedByte && Memory.wfFrom (k + 1) rest

/-- The canonical form. -/
def Memory.wf (m : Memory) : Bool := Memory.wfFrom 0 m

/-- The bytes at a list of addresses. -/
def Memory.readBytes (m : Memory) (addrs : List Nat) : List Byte := addrs.map m.readByte

/-- Bytes written at addresses, in order. -/
def Memory.writeBytes : Memory → List (Nat × Byte) → Memory
  | m, [] => m
  | m, (a, b) :: rest => Memory.writeBytes (m.writeByte a b) rest

/-- The record of stores with one address added, strictly rising (20_memory.md R173). -/
def noteStore : List Nat → Nat → List Nat
  | [], a => [a]
  | k :: rest, a => if a < k then a :: k :: rest else if a = k then k :: rest else k :: noteStore rest a

/-- The record of stores with a list of addresses added. -/
def noteStores (l : List Nat) (addrs : List Nat) : List Nat := addrs.foldl noteStore l

/-- Whether a supervisor physical address is memory (20_memory.md R155, parameter `MEMMAP`). -/
def isMemory (c : Config) (a : Nat) : Bool :=
  c.memMap.any fun r => decide (r.base ≤ a) && decide (a < r.base + r.size)

end Sys2Proof.Machine
end

