-- ==== Sys2Proof/Machine/Operands.lean ====
section
/-! DEFINITION. The operand forms: a general register read and written, the 5-bit immediate, the address of a
virtual-machine load or store, and data as bytes in a byte order (30_encoding.md R183, 20_memory.md R147). -/

namespace Sys2Proof.Machine

open Sys2Proof

/-! ## General registers (10_state.md R24, 00_scope.md R10) -/

/-- `x[i]`: x0 reads zero; a register is as wide as the current mode (10_state.md R24). -/
def State.x (s : State) (r : Reg) : Word :=
  if r = 0 then 0 else fit s.xlen s.regs[r.toNat]

/-- What a register holds after a write at the current width. At XLEN = 32 on a 64-bit hart the upper half is a free
value (91_not_in_source.md N12, log 16). -/
def State.regImage (s : State) (w : Word) : Word :=
  match s.xlen, s.cfg.hsxlen with
  | .x64, _ => w
  | .x32, .x32 => fit .x32 w
  | .x32, .x64 => Config.upperOfReg s.tick ++ w.setWidth 32

/-- `x[i] <- w`: a write to x0 is discarded (10_state.md R24). -/
def State.setX (s : State) (r : Reg) (w : Word) : State :=
  { s with regs := if r = 0 then s.regs else s.regs.set r.toNat (s.regImage w) }

/-! ## Immediates (30_encoding.md R183) -/

/-- The zero-extended 5-bit immediate of CSRRWI, CSRRSI, CSRRCI. -/
def uimmValue (u : BitVec 5) : Word := u.setWidth 64

/-! ## Program counter (10_state.md R25) -/

/-- `pc <- pc + 4` modulo 2^XLEN (00_scope.md R10, 43_arithmetic_and_control.md R431, R440). -/
def State.advance (s : State) : State := { s with pc := fit s.xlen (s.pc + 4) }

/-- `pc <- t`. -/
def State.setPc (s : State) (t : Word) : State := { s with pc := t }

/-! ## Data as bytes (20_memory.md R147) -/

/-- The value of bytes, the first the least significant. -/
def natOfBytes : List Byte → Nat
  | [] => 0
  | b :: rest => b.toNat + 256 * natOfBytes rest

/-- Bytes in address order as a value, in byte order `be` (20_memory.md R147). -/
def valueOfBytes (be : Bool) (bs : List Byte) : Word :=
  BitVec.ofNat 64 (natOfBytes (if be then bs.reverse else bs))

/-- The low `n` bytes of a value, least significant first. -/
def lowBytes : Nat → Word → List Byte
  | 0, _ => []
  | n + 1, w => w.setWidth 8 :: lowBytes n (w >>> 8)

/-- The `n` bytes a store of a value puts at rising addresses, in byte order `be` (20_memory.md R147). -/
def bytesOfValue (be : Bool) (n : Nat) (w : Word) : List Byte :=
  if be then (lowBytes n w).reverse else lowBytes n w

/-- Sign or zero extension of a loaded value of `n` bytes (43_arithmetic_and_control.md R435). -/
def extendLoaded (signed : Bool) (n : Nat) (w : Word) : Word :=
  if signed then signExtendFrom (8 * n) w else zeroExtendFrom (8 * n) w

end Sys2Proof.Machine
end

