-- ==== Sys2Proof/Machine/Ops.lean ====
section
/-! DEFINITION. The named operations every meaning shares: taking an exception or an interrupt as one operation
(60_exceptions.md R340 to R357), the two returns (42_privileged.md R281, R282, 60_exceptions.md R358), and the bytes
of memory by supervisor physical address (20_memory.md R150, R173). -/

namespace Sys2Proof.Machine

open Sys2Proof

/-! ## Exception codes (60_exceptions.md R320) -/

def excInstrMisaligned : Nat := 0
def excInstrAccess : Nat := 1
def excIllegal : Nat := 2
def excBreakpoint : Nat := 3
def excLoadMisaligned : Nat := 4
def excLoadAccess : Nat := 5
def excStoreMisaligned : Nat := 6
def excStoreAccess : Nat := 7
def excEcallU : Nat := 8
def excEcallHS : Nat := 9
def excEcallVS : Nat := 10
def excEcallM : Nat := 11
def excInstrPage : Nat := 12
def excLoadPage : Nat := 13
def excStorePage : Nat := 15
def excInstrGuestPage : Nat := 20
def excLoadGuestPage : Nat := 21
def excVirtual : Nat := 22
def excStoreGuestPage : Nat := 23

/-- The codes of guest-page faults (60_exceptions.md R322). -/
def isGuestPageCode (c : Nat) : Bool := c == 20 || c == 21 || c == 23

/-! ## Trap entry (60_exceptions.md R350) -/

/-- The guest physical address a guest-page fault reports (20_memory.md R162): of the access itself, or of an implicit
access of the VS-stage, whose size and direction name the pseudo-instruction of 60_exceptions.md R356. -/
structure GuestFault where
  gpa : Nat
  implicit : Bool
  pteBytes : Nat
  write : Bool
  deriving DecidableEq, Repr

/-- The inputs of a trap entry (60_exceptions.md R350). -/
structure Trap where
  isInt : Bool
  code : Nat
  /-- What `stval`, `vstval` or `mtval` receives. -/
  tval : Word
  /-- Whether `tval` is an address used with effective virtualization mode 1 (60_exceptions.md R353). -/
  tvalIsGva : Bool
  /-- For a guest-page fault, the address it reports. -/
  guest : Option GuestFault := none
  /-- The transformed instruction of 60_exceptions.md R356, 0 where there is none. -/
  transformed : Word := 0
  deriving DecidableEq, Repr

/-- The mode a trap is taken into (60_exceptions.md R350). -/
inductive Target where
  | machine
  | hyper
  | guest
  deriving DecidableEq, Repr

/-- `ExceptionTarget` (60_exceptions.md R341). -/
def State.exceptionTarget (s : State) (code : Nat) : Target :=
  if s.priv = .m ∨ bit s.medelegBits code = false then .machine
  else if s.v = true ∧ bit s.hedelegBits code = true then .guest
  else .hyper

/-- A cause register's value: the interrupt flag in the top bit, the code below (10_state.md R125, 60 R351, R352). -/
def causeWord (x : Xlen) (isInt : Bool) (code : Nat) : Word :=
  (if isInt then bitMask (topBit x) else 0) ||| BitVec.ofNat 64 code

/-- `TrapVector` (60_exceptions.md R357), modulo 2^XLEN of the target (43_arithmetic_and_control.md R431). -/
def trapVector (x : Xlen) (tvec : Word) (isInt : Bool) (code : Nat) : Word :=
  let base := merge 0x3 0 tvec
  fit x (if field tvec 0 2 = 1 ∧ isInt = true then base + BitVec.ofNat 64 (4 * code) else base)

/-- The guest physical address shifted right by 2, in the trap value registers' width (60_exceptions.md R355). -/
def shiftedGpa (x : Xlen) (gpa : Nat) : Word := fit x (BitVec.ofNat 64 (gpa / 4))

/-- The pseudo-instruction of an implicit access (60_exceptions.md R356, G35). -/
def pseudoInstr (g : GuestFault) : Word :=
  (if g.pteBytes = 8 then 0x3000 else 0x2000) ||| (if g.write then 0x20 else 0)

/-- Whether a nonzero `htval` may go with a fault: on an implicit access the pseudo-instruction must be written beside it, so
the implementation has to write nonzero `htinst` values and HTINST_legal to hold that one (60_exceptions.md R356, G35). -/
def State.tellsImplicit (s : State) (g : GuestFault) : Bool :=
  !g.implicit || (s.cfg.htinstNonzero && Config.htinstHolds (pseudoInstr g))

/-- What `htval` (or `mtval2`) receives: 0 or the shifted guest physical address on a guest-page fault, the choice free
and limited to `HTVAL_legal`; 0 on every other trap (60_exceptions.md R355). -/
def State.htvalOfTrap (s : State) (t : Trap) : Word :=
  match t.guest with
  | some g =>
    let w := shiftedGpa s.cfg.hsxlen g.gpa
    if !t.isInt && isGuestPageCode t.code && Config.drawHtval s.tick && Config.htvalHolds w && s.tellsImplicit g then w
    else 0
  | none => 0

/-- A permitted value of `htinst` that HTINST_legal holds, else 0 (10_state.md R96, 60_exceptions.md R356). -/
def htinstLegal (w : Word) : Word := if Config.htinstHolds w then w else 0

/-- What `htinst` (or `mtinst`) receives: 0, or, where the implementation writes nonzero values, freely 0 or the value of
60_exceptions.md R356, if HTINST_legal holds it (10_state.md R96); with a nonzero `htval` for an implicit access the
pseudo-instruction. -/
def State.htinstOfTrap (s : State) (t : Trap) : Word :=
  if t.isInt || !s.cfg.htinstNonzero then 0
  else
    match t.guest with
    | some g =>
      if g.implicit then
        (if s.htvalOfTrap t != 0 || Config.drawHtinst s.tick then htinstLegal (pseudoInstr g) else 0)
      else if Config.drawHtinst s.tick then htinstLegal t.transformed else 0
    | none => if Config.drawHtinst s.tick then htinstLegal t.transformed else 0

/-- The code a trap into VS-mode reports: interrupts 10, 6, 2 become 9, 5, 1 (60_exceptions.md R343,
43_arithmetic_and_control.md R434). -/
def guestCode (isInt : Bool) (code : Nat) : Nat :=
  if isInt then (if code = 10 then 9 else if code = 6 then 5 else if code = 2 then 1 else code) else code

/-- SIE moved to SPIE, SIE cleared and SPP written, as entry does to `sstatus` or `vsstatus` (60_exceptions.md R351,
R352). -/
def enterStatus (w : Word) (spp : Bool) : Word := setBit (setBit (setBit w 5 (bit w 1)) 1 false) 8 spp

/-- Trap into VS-mode (60_exceptions.md R351). -/
def State.enterGuest (s : State) (t : Trap) (epc : Word) : State :=
  let x := s.vsxlen
  { s with
    vs := { s.vs with
      vsepc := fit x epc
      vscause := causeWord x t.isInt (guestCode t.isInt t.code)
      vstval := fit x t.tval
      vsstatus := enterStatus s.vs.vsstatus (s.priv == .s) }
    priv := .s
    pc := trapVector x s.vs.vstvec t.isInt (guestCode t.isInt t.code) }

/-- `hstatus` after a trap into HS-mode: SPV, SPVP when V was 1, GVA (60_exceptions.md R352, R353). -/
def State.hstatusOfEntry (s : State) (t : Trap) : Word :=
  let h := setBit s.hyp.hstatus 7 s.v
  let h := if s.v then setBit h 8 (s.priv == .s) else h
  setBit h 6 t.tvalIsGva

/-- Trap into HS-mode (60_exceptions.md R352). -/
def State.enterHyper (s : State) (t : Trap) (epc : Word) : State :=
  let x := s.cfg.hsxlen
  { s with
    sup := { s.sup with sepc := fit x epc, scause := causeWord x t.isInt t.code, stval := fit x t.tval }
    hyp := { s.hyp with hstatus := s.hstatusOfEntry t, htval := s.htvalOfTrap t, htinst := s.htinstOfTrap t }
    mach := { s.mach with mstatus := enterStatus s.mach.mstatus (s.priv == .s) }
    v := false
    priv := .s
    pc := trapVector x s.sup.stvec t.isInt t.code }

/-- `mstatus` after a trap into M-mode: MPV, GVA, MPP, MPIE, MIE (60_exceptions.md R354). -/
def State.mstatusOfEntry (s : State) (t : Trap) : Word :=
  let m := setBit s.mach.mstatus 39 s.v
  let m := setBit m 38 t.tvalIsGva
  let m := setField m 11 2 s.priv.code
  let m := setBit m 7 (bit m 3)
  setBit m 3 false

/-- Trap into M-mode (60_exceptions.md R354). -/
def State.enterMachine (s : State) (t : Trap) (epc : Word) : State :=
  let x := s.cfg.hsxlen
  { s with
    mach := { s.mach with
      mepc := fit x epc
      mcause := causeWord x t.isInt t.code
      mtval := fit x t.tval
      mtval2 := s.htvalOfTrap t
      mtinst := s.htinstOfTrap t
      mstatus := s.mstatusOfEntry t }
    v := false
    priv := .m
    pc := trapVector x s.mach.mtvec t.isInt t.code }

/-- TAKING A TRAP: the one operation every exception and interrupt goes through (60_exceptions.md R350). -/
def State.enter (s : State) (target : Target) (t : Trap) (epc : Word) : State :=
  match target with
  | .machine => s.enterMachine t epc
  | .hyper => s.enterHyper t epc
  | .guest => s.enterGuest t epc

/-- A synchronous exception of the instruction at `pc`: `raise E(info)` (00_scope.md R10, 60_exceptions.md R323, R341). -/
def State.raise (s : State) (t : Trap) : State := s.enter (s.exceptionTarget t.code) t s.pc

/-- An interrupt taken before the instruction at `pc` (60_exceptions.md R333, R350). -/
def State.takeInterrupt (s : State) (target : Target) (code : Nat) : State :=
  s.enter target { isInt := true, code := code, tval := 0, tvalIsGva := false } s.pc

/-- The illegal or virtual instruction exception of the word at `pc`; the trap value is 0 or the instruction bits,
freely (40_csr_access.md R237, 92 D29). -/
def State.barTrap (s : State) (code : Nat) (word : InstrWord) : Trap :=
  { isInt := false, code := code, tval := if Config.drawTval s.tick then word.setWidth 64 else 0, tvalIsGva := false }

/-- Raise the illegal instruction (2) or the virtual instruction (22) exception. -/
def State.raiseBarred (s : State) (code : Nat) (word : InstrWord) : State := s.raise (s.barTrap code word)

/-! ## Trap return -/

/-- SPIE moved to SIE, SPIE set and SPP cleared, as SRET does to `sstatus` or `vsstatus` (42_privileged.md R281, R282). -/
def leaveStatus (w : Word) : Word := setBit (setBit (setBit w 1 (bit w 5)) 5 true) 8 false

/-- SRET at V = 0 (42_privileged.md R281): in M-mode MPRV is cleared as well. -/
def State.returnHyper (s : State) : State :=
  let p := privOfBit s.spp
  let m := leaveStatus s.mach.mstatus
  { s with
    mach := { s.mach with mstatus := if s.priv = .m then setBit m 17 false else m }
    hyp := { s.hyp with hstatus := setBit s.hyp.hstatus 7 false }
    pc := fit (s.xlenOf s.spv p) s.sup.sepc
    v := s.spv
    priv := p }

/-- SRET at V = 1 (42_privileged.md R282). -/
def State.returnGuest (s : State) : State :=
  let p := privOfBit s.vsSpp
  { s with
    vs := { s.vs with vsstatus := leaveStatus s.vs.vsstatus }
    pc := fit (s.xlenOf true p) s.vs.vsepc
    priv := p }

/-- MRET (60_exceptions.md R358): MPIE to MIE, MPIE set, MPP to U, MPV cleared. -/
def State.returnMachine (s : State) : State :=
  let p := privOfCode s.mstatusMpp
  let v := p != .m && s.mstatusMpv
  let m := setBit s.mach.mstatus 3 (bit s.mach.mstatus 7)
  let m := setBit m 7 true
  let m := setField m 11 2 Priv.u.code
  let m := setBit m 39 false
  { s with
    mach := { s.mach with mstatus := m }
    pc := fit (s.xlenOf v p) s.mach.mepc
    v := v
    priv := p }

/-! ## Memory by supervisor physical address (20_memory.md R150) -/

/-- `MemRead` at the listed byte addresses. -/
def State.memRead (s : State) (addrs : List Nat) : List Byte := Memory.readBytes s.mem addrs

/-- `MemWrite` at the listed byte addresses, noting them as stored to (20_memory.md R173). -/
def State.memWrite (s : State) (cells : List (Nat × Byte)) : State :=
  { s with
    mem := Memory.writeBytes s.mem cells
    storedTo := noteStores s.storedTo (cells.map Prod.fst) }

/-! ## Floating-point state (42_privileged.md R300 to R302) -/

/-- Whether a floating-point instruction is barred: `sstatus.FS` is Off, or at V = 1 either FS is (42_privileged.md
R300). -/
def State.floatOff (s : State) : Bool := s.fs == 0 || (s.v && s.vsFs == 0)

/-- What modifying floating-point state does to FS: Dirty in both registers at V = 1 (42_privileged.md R301); at V = 0 in
`sstatus` alone (PRESUMED, log 27). No step calls it: floating-point instructions are out of scope. -/
def State.floatDirty (s : State) : State :=
  { s with
    mach := { s.mach with mstatus := setField s.mach.mstatus 13 2 3 }
    vs := if s.v then { s.vs with vsstatus := setField s.vs.vsstatus 13 2 3 } else s.vs }

end Sys2Proof.Machine
end

