-- ==== Sys2Proof/Machine/Csr.lean ====
section
/-! DEFINITION. The CSRs: addresses (30_encoding.md R184, R185), which access reaches which register and which exception a
barred one raises (40_csr_access.md R211 to R220, R230, R231), what a read gives (10_state.md) and what a write
leaves (40_csr_access.md R227). -/

namespace Sys2Proof.Machine

open Sys2Proof

/-- Every CSR the spec refers to (30_encoding.md R184, R185, 60_exceptions.md R354). -/
inductive Csr where
  | hstatus | hedeleg | hideleg | hie | htimedelta | hcounteren | hgeie | htimedeltah | htval | hip | hvip | htinst
  | hgatp | hgeip
  | vsstatus | vsie | vstvec | vsscratch | vsepc | vscause | vstval | vsip | vsatp
  | sstatus | sie | stvec | scounteren | sscratch | sepc | scause | stval | sip | satp
  | mstatus | misa | medeleg | mideleg | mie | mtvec | mcounteren | mstatush | mscratch | mepc | mcause | mtval | mip
  | mtinst | mtval2
  /-- `cycle`, `time`, `instret`, `hpmcounter`n by index n (10_state.md R86). -/
  | counter (n : BitVec 5)
  /-- The high half of counter n on RV32 (30_encoding.md R185). -/
  | counterh (n : BitVec 5)
  deriving DecidableEq, Repr

/-- `CSR_ADDR`, apart from the counters. The addresses of `mtvec`, `mscratch`, `mepc`, `mcause`, `mtval` and `mstatush` are
PRESUMED, the others are 30_encoding.md R184, R185 (log 9). No other CSR is implemented: DESIGN CHOICE, log 43. -/
def csrTable : List (Nat × Csr) :=
  [(0x600, .hstatus), (0x602, .hedeleg), (0x603, .hideleg), (0x604, .hie), (0x605, .htimedelta), (0x606, .hcounteren),
   (0x607, .hgeie), (0x615, .htimedeltah), (0x643, .htval), (0x644, .hip), (0x645, .hvip), (0x64A, .htinst),
   (0x680, .hgatp), (0xE12, .hgeip)]
  ++ [(0x200, .vsstatus), (0x204, .vsie), (0x205, .vstvec), (0x240, .vsscratch), (0x241, .vsepc), (0x242, .vscause),
   (0x243, .vstval), (0x244, .vsip), (0x280, .vsatp)]
  ++ [(0x100, .sstatus), (0x104, .sie), (0x105, .stvec), (0x106, .scounteren), (0x140, .sscratch), (0x141, .sepc),
   (0x142, .scause), (0x143, .stval), (0x144, .sip), (0x180, .satp)]
  ++ [(0x300, .mstatus), (0x301, .misa), (0x302, .medeleg), (0x303, .mideleg), (0x304, .mie), (0x305, .mtvec),
   (0x306, .mcounteren), (0x310, .mstatush), (0x340, .mscratch), (0x341, .mepc), (0x342, .mcause), (0x343, .mtval),
   (0x344, .mip), (0x34A, .mtinst), (0x34B, .mtval2)]

/-- The CSR at an address, none where the hart implements none (log 43). -/
def csrAt (a : CsrAddr) : Option Csr :=
  if a.extractLsb' 5 7 = 0b1100000 then some (.counter (a.extractLsb' 0 5))
  else if a.extractLsb' 5 7 = 0b1100100 then some (.counterh (a.extractLsb' 0 5))
  else csrTable.lookup a.toNat

/-- The classes of 40_csr_access.md R213. -/
inductive CsrClass where
  | machine
  | hyper
  | vs
  /-- A supervisor CSR with the VS CSR that stands in for it at V = 1 (10_state.md R27). -/
  | sup (replica : Csr)
  /-- A supervisor CSR without one (10_state.md R30). -/
  | supOnly
  | counter (n : BitVec 5)
  deriving DecidableEq, Repr

/-- The class of a CSR (40_csr_access.md R213). -/
def Csr.cls : Csr → CsrClass
  | .hstatus | .hedeleg | .hideleg | .hie | .htimedelta | .hcounteren | .hgeie | .htimedeltah => .hyper
  | .htval | .hip | .hvip | .htinst | .hgatp | .hgeip => .hyper
  | .vsstatus | .vsie | .vstvec | .vsscratch | .vsepc | .vscause | .vstval | .vsip | .vsatp => .vs
  | .sstatus => .sup .vsstatus
  | .sie => .sup .vsie
  | .stvec => .sup .vstvec
  | .sscratch => .sup .vsscratch
  | .sepc => .sup .vsepc
  | .scause => .sup .vscause
  | .stval => .sup .vstval
  | .sip => .sup .vsip
  | .satp => .sup .vsatp
  | .scounteren => .supOnly
  | .mstatus | .misa | .medeleg | .mideleg | .mie | .mtvec | .mcounteren | .mstatush | .mscratch | .mepc => .machine
  | .mcause | .mtval | .mip | .mtinst | .mtval2 => .machine
  | .counter n => .counter n
  | .counterh n => .counter n

/-- Whether the hart has the register: `htimedeltah` and `mstatush` only at HSXLEN = 32, the counters' high halves only at
XLEN = 32 (10_state.md R91, 30_encoding.md R185, log 39). -/
def State.hasCsr (s : State) (c : Csr) : Bool :=
  match c with
  | .htimedeltah | .mstatush => s.cfg.hsxlen == .x32
  | .counterh _ => s.xlen == .x32
  | _ => true

/-! ## Access checks (40_csr_access.md R212 to R220, R230, R231) -/

/-- `CounterCheck`: none if permitted, else the exception's code (40_csr_access.md R230 at V = 1, R231 at V = 0). -/
def State.counterBar (s : State) (n : BitVec 5) : Option Nat :=
  let mEn := s.mach.mcounteren.getLsbD n.toNat
  let hEn := s.hyp.hcounteren.getLsbD n.toNat
  let sEn := s.sup.scounteren.getLsbD n.toNat
  if s.v then
    if !mEn then some excIllegal
    else if !hEn then some excVirtual
    else if s.priv == .u && !sEn then some excVirtual
    else none
  else
    match s.priv with
    | .m => none
    | .s => if mEn then none else some excIllegal
    | .u => if mEn && sEn then none else some excIllegal

/-- Whether `mstatus.TVM` bars a CSR in HS-mode: `satp` and `hgatp` (40_csr_access.md R218, R219). -/
def tvmBars (c : Csr) : Bool := c == .satp || c == .hgatp

/-- The register a CSR instruction reaches in the current mode, or the code of the exception it raises: illegal
instruction (2) or virtual instruction (22) (40_csr_access.md R211 to R220). -/
def State.resolveCsr (s : State) (a : CsrAddr) (wantWrite : Bool) : Except Nat Csr :=
  match csrAt a with
  | none => .error excIllegal
  | some c =>
    if !s.hasCsr c then .error excIllegal
    else if wantWrite && a.extractLsb' 10 2 == 3 then .error excIllegal
    else
      match c.cls with
      | .machine => if s.priv = .m then .ok c else .error excIllegal
      | .counter n =>
        match s.counterBar n with
        | none => .ok c
        | some e => .error e
      | .hyper | .vs =>
        if s.v then .error excVirtual
        else if s.priv = .u then .error excIllegal
        else if s.priv = .s ∧ s.mstatusTvm = true ∧ tvmBars c = true then .error excIllegal
        else .ok c
      | .sup replica =>
        if s.v then
          (if s.priv = .u then .error excVirtual
           else if c = .satp ∧ s.vtvm = true then .error excVirtual
           else .ok replica)
        else if s.priv = .u then .error excIllegal
        else if s.priv = .s ∧ s.mstatusTvm = true ∧ tvmBars c = true then .error excIllegal
        else .ok c
      | .supOnly =>
        if s.priv = .u then .error (if s.v then excVirtual else excIllegal)
        else .ok c

/-! ## Reads -/

/-- The bits of `hstatus` other than VSXL (10_state.md R33). -/
def hstatusFields : Word := 0x0073F3E0

/-- The bits of `sstatus` and `vsstatus` that CSR writes store as written: SIE, SPIE, SPP, FS, SUM, MXR (10_state.md
R108, 40_csr_access.md R227). -/
def sstatusWritable : Word := 0x000C6122

/-- Those and XS (10_state.md R108). -/
def sstatusStored : Word := 0x000DE122

/-- The bits of `mstatus` that CSR writes store as written, apart from MPP, UXL, GVA and MPV (10_state.md R130, 60 R354). -/
def mstatusWritable : Word := sstatusWritable ||| 0x00720088

/-- A two-bit width field at bits 33:32, present at 64 bits (10_state.md R33, R108). -/
def widthField (x : Xlen) (code : Nat) : Word :=
  match x with
  | .x32 => 0
  | .x64 => setField 0 32 2 code

/-- SD at the top bit of a register at a width (10_state.md R108). -/
def sdBit (x : Xlen) (b : Bool) : Word := if b then bitMask (topBit x) else 0

/-- `hstatus` as read (10_state.md R33); VGEIN reads zero without guest external interrupts (R38). -/
def State.readHstatus (s : State) : Word :=
  let h := (s.hyp.hstatus &&& hstatusFields) ||| widthField s.cfg.hsxlen s.vsxl
  if s.cfg.geilen = 0 then setField h 12 6 0 else h

/-- `vsstatus` as read (10_state.md R108 to R112). -/
def State.readVsstatus (s : State) : Word :=
  (s.vs.vsstatus &&& sstatusStored) ||| (if s.vsUbe then bitMask 6 else 0) ||| widthField s.vsxlen s.vsUxl |||
    sdBit s.vsxlen (statusSd s.vs.vsstatus)

/-- The HS-level `sstatus` as read (10_state.md R108, R130). -/
def State.readSstatus (s : State) : Word :=
  (s.mach.mstatus &&& sstatusStored) ||| widthField s.cfg.hsxlen s.hsUxl |||
    sdBit s.cfg.hsxlen (statusSd s.mach.mstatus)

/-- `mstatus` as read: on RV64 with GVA, MPV at 38, 39 (60_exceptions.md R354, PRESUMED, log 10); a bit no rule names reads
zero (92 D39). -/
def State.readMstatus (s : State) : Word :=
  let low := (s.mach.mstatus &&& (mstatusWritable ||| 0x19800)) ||| sdBit s.cfg.hsxlen (statusSd s.mach.mstatus)
  match s.cfg.hsxlen with
  | .x32 => low
  | .x64 => low ||| widthField .x64 s.hsUxl ||| (s.mach.mstatus &&& 0xC000000000)

/-- `mstatush` as read: GVA at bit 6, MPV at bit 7 (60_exceptions.md R354). -/
def State.readMstatush (s : State) : Word :=
  (if s.mstatusGva then bitMask 6 else 0) ||| (if s.mstatusMpv then bitMask 7 else 0)

/-- Counter n as the current mode reads it: `time` offset by `htimedelta` at V = 1 (40_csr_access.md R232 to R234). -/
def State.counterValue (s : State) (n : BitVec 5) : BitVec 64 :=
  let c := s.counters[n.toNat]
  if n = 1 ∧ s.v = true then c + s.hyp.htimedelta else c

/-- What a 64-bit instruction sees of a VS CSR when VSXLEN is 32: the upper half is a free value (40_csr_access.md R238,
log 16). -/
def State.vsImage (s : State) (w : Word) : Word :=
  match s.vsxlen, s.xlen with
  | .x32, .x64 => Config.upperOfVsCsr s.tick ++ w.setWidth 32
  | x, _ => fit x w

/-- `ReadCsr` (40_csr_access.md R210). -/
def State.readCsr (s : State) (c : Csr) : Word :=
  let h := s.cfg.hsxlen
  match c with
  | .hstatus => s.readHstatus
  | .hedeleg => s.hedelegBits
  | .hideleg => s.hidelegBits
  | .hie => s.hie
  | .htimedelta => fit h s.hyp.htimedelta
  | .hcounteren => s.hyp.hcounteren.setWidth 64
  | .hgeie => s.hgeieBits
  | .htimedeltah => s.hyp.htimedelta >>> 32
  | .htval => fit h s.hyp.htval
  | .hip => s.hip
  | .hvip => s.hvipBits
  | .htinst => fit h s.hyp.htinst
  | .hgatp => fit h s.hyp.hgatp
  | .hgeip => s.hgeip
  | .vsstatus => s.vsImage s.readVsstatus
  | .vsie => s.vsImage s.vsie
  | .vstvec => s.vsImage s.vs.vstvec
  | .vsscratch => s.vsImage s.vs.vsscratch
  | .vsepc => s.vsImage s.vs.vsepc
  | .vscause => s.vsImage s.vs.vscause
  | .vstval => s.vsImage s.vs.vstval
  | .vsip => s.vsImage s.vsip
  | .vsatp => s.vsImage s.vs.vsatp
  | .sstatus => s.readSstatus
  | .sie => s.sieBits
  | .stvec => fit h s.sup.stvec
  | .scounteren => s.sup.scounteren.setWidth 64
  | .sscratch => fit h s.sup.sscratch
  | .sepc => fit h s.sup.sepc
  | .scause => fit h s.sup.scause
  | .stval => fit h s.sup.stval
  | .sip => s.sip
  | .satp => fit h s.sup.satp
  | .mstatus => s.readMstatus
  | .misa => fit h s.mach.misa
  | .medeleg => s.medelegBits
  | .mideleg => s.midelegBits
  | .mie => s.mieBits
  | .mtvec => fit h s.mach.mtvec
  | .mcounteren => s.mach.mcounteren.setWidth 64
  | .mstatush => s.readMstatush
  | .mscratch => fit h s.mach.mscratch
  | .mepc => fit h s.mach.mepc
  | .mcause => fit h s.mach.mcause
  | .mtval => fit h s.mach.mtval
  | .mip => s.mipBits
  | .mtinst => fit h s.mach.mtinst
  | .mtval2 => fit h s.mach.mtval2
  | .counter n => fit s.xlen (s.counterValue n)
  | .counterh n => s.counterValue n >>> 32

/-! ## Writes (40_csr_access.md R227) -/

/-- A member of a legal set: the written value if it is one, else the member a free choice picks (00_scope.md R11). -/
def legalize (legal : List Nat) (written choice : Nat) : Nat :=
  if legal.contains written then written else legal.getD (choice % legal.length) 0

/-- A field of `len` bits of which a write stores the low `n` bits as written. The bits above are WARL, their legal set 0 and
what `holds` has: the written ones where they are legal, else the chosen ones where those are, else 0 (00_scope.md R11, 93 U3,
log 23). -/
def warlAbove (holds : Nat → Bool) (len n written choice : Nat) : Nat :=
  let upper := written / 2 ^ n
  let other := choice % 2 ^ (len - n)
  written % 2 ^ n + (if upper = 0 ∨ holds upper = true then upper else if holds other then other else 0) * 2 ^ n

/-- A member, at a width, of a legal set that holds 0: the written value if it is one, else the chosen one, else 0. -/
def legalizeIn (x : Xlen) (holds : Word → Bool) (w choice : Word) : Word :=
  if fit x w == 0 || holds (fit x w) then fit x w else if holds (fit x choice) then fit x choice else 0

/-- `legalize_htval` (10_state.md R93). -/
def legalizeHtval (c : Config) (w old : Word) : Word :=
  legalizeIn c.hsxlen Config.htvalHolds w (Config.legalizeHtval w old)

/-- `legalize_htinst` (10_state.md R96): only 0 where the implementation writes no nonzero value. -/
def legalizeHtinst (c : Config) (w old : Word) : Word :=
  if !c.htinstNonzero then 0 else legalizeIn c.hsxlen Config.htinstHolds w (Config.legalizeHtinst w old)

/-- A trap vector register keeps BASE and MODE bit 0 (10_state.md R121, 40_csr_access.md R227). -/
def tvecImage (x : Xlen) (w : Word) : Word := fit x (merge 0x2 0 w)

/-- The low bits of an exception pc that read zero (10_state.md R124). -/
def epcLow (c : Config) : Word :=
  match c.ialign with
  | .i16 => 0x1
  | .i32 => 0x3

/-- An exception pc register keeps an aligned address (10_state.md R124, 40_csr_access.md R227). -/
def epcImage (c : Config) (x : Xlen) (w : Word) : Word := fit x (merge (epcLow c) 0 w)

/-- The exception codes a cause register can hold (60_exceptions.md R320). -/
def excCodes : List Nat := [0, 1, 2, 3, 4, 5, 6, 7, 8, 9, 10, 11, 12, 13, 15, 20, 21, 22, 23]

/-- The interrupt codes a cause register can hold (60_exceptions.md R325). -/
def intCodes : List Nat := [1, 2, 3, 5, 6, 7, 9, 10, 11, 12]

/-- Whether a value is a listed cause at a width: what `vscause` can hold (10_state.md R125, DEDUCED, log 11). -/
def causeLegal (x : Xlen) (w : Word) : Bool :=
  let code := field w 0 (topBit x)
  if bit w (topBit x) then intCodes.contains code else excCodes.contains code

/-- What a cause register other than `vscause` holds after a write: a listed code as written; for any other the spec states
no result, and the value is free (DESIGN CHOICE, log 11). -/
def causeImage (x : Xlen) (w old : Word) : Word := fit x (if causeLegal x w then w else Config.causeWritten w old)

/-- The width of the PPN field of `hgatp`, `satp` and `vsatp` (10_state.md R98, R127). -/
def ppnWidth : Xlen → Nat
  | .x32 => 22
  | .x64 => 44

/-- The width of the ASID field of `satp` and `vsatp` (10_state.md R127). -/
def asidWidth : Xlen → Nat
  | .x32 => 9
  | .x64 => 16

/-- A `satp`-shaped register with its fields (10_state.md R127). -/
def satpImage (x : Xlen) (mode asid ppn : Nat) : Word :=
  match x with
  | .x32 => setField (setField (setField 0 31 1 mode) 22 9 asid) 0 22 ppn
  | .x64 => setField (setField (setField 0 60 4 mode) 44 16 asid) 0 44 ppn

/-- A field of which a write of `w` over `old` stores the low `n` bits (log 23). -/
def warlField (f : WarlField) (len n written : Nat) (w old : Word) : Nat :=
  warlAbove (Config.upperHolds f) len n written (Config.legalizeUpper f w old)

/-- `hgatp` after a write (10_state.md R98 to R104, 40_csr_access.md R227): MODE legalized, VMID cut to VMIDLEN bits, PPN as
written with bits 1:0 zero and the bits above the physical address width WARL. -/
def State.hgatpImage (s : State) (w : Word) : Word :=
  let choice := Config.legalizeHgatpMode w s.hyp.hgatp
  let x := s.cfg.hsxlen
  let ppn := warlField .hgatpPpn (ppnWidth x) (s.cfg.paBits - 12) (satpPpn x w) w s.hyp.hgatp / 4 * 4
  match x with
  | .x32 =>
    let mode := legalize s.cfg.hgatpModes (field w 31 1) choice
    setField (setField (setField 0 31 1 mode) 22 7 (field w 22 7 % 2 ^ s.cfg.vmidlen)) 0 22 ppn
  | .x64 =>
    let mode := legalize s.cfg.hgatpModes (field w 60 4) choice
    setField (setField (setField 0 60 4 mode) 44 14 (field w 44 14 % 2 ^ s.cfg.vmidlen)) 0 44 ppn

/-- UXL after a VSXL change from 32 to 64 bits: the widest supported width (10_state.md R109, 70_reset_and_hazards.md
R417). -/
def widestUxl (c : Config) : Nat := if c.uxlLegal.contains 2 then 2 else 1

/-- VSXL after a write (10_state.md R34). -/
def State.vsxlImage (s : State) (w : Word) : Nat :=
  legalize s.cfg.vsxlLegal (field w 32 2) (Config.legalizeVsxl w s.hyp.hstatus)

/-- `hstatus` after a write of a value whose VGEIN is legal (40_csr_access.md R227). -/
def State.hstatusImage (s : State) (w : Word) : Word :=
  let h := merge 0x007003C0 w s.hyp.hstatus
  let h := setBit h 5 (s.cfg.vsbeWritable && bit w 5)
  let h := if s.cfg.geilen = 0 then setField h 12 6 0 else setField h 12 6 (field w 12 6)
  match s.cfg.hsxlen with
  | .x32 => h
  | .x64 => setField h 32 2 (s.vsxlImage w)

/-- UXL of a status register after a write at a width: kept at 32 bits and where it is a copy, else legalized
(10_state.md R109; for the HS-level field with the parameters of `vsstatus.UXL`, DESIGN CHOICE, log 21). -/
def uxlImage (c : Config) (x : Xlen) (w old : Word) : Nat :=
  match x with
  | .x32 => field old 32 2
  | .x64 =>
    if c.uxlCopy then field old 32 2 else legalize c.uxlLegal (field w 32 2) (Config.legalizeUxl w old)

/-- `vsstatus` after a write (10_state.md R108 to R112, 40_csr_access.md R227). -/
def State.vsstatusImage (s : State) (w : Word) : Word :=
  let old := s.vs.vsstatus
  let r := merge sstatusWritable w old
  let r := if s.cfg.ubeCopy then r else setBit r 6 (bit w 6)
  setField r 32 2 (uxlImage s.cfg s.vsxlen w old)

/-- `mstatus` after a write of the HS-level `sstatus` (10_state.md R108, R130, log 8). -/
def State.sstatusImage (s : State) (w : Word) : Word :=
  let old := s.mach.mstatus
  setField (merge sstatusWritable w old) 32 2 (uxlImage s.cfg s.cfg.hsxlen w old)

/-- `mstatus` after a write of it: MPP is one of U, S, M; on RV64 GVA and MPV as written (PRESUMED, log 10, 34). -/
def State.mstatusImage (s : State) (w : Word) : Word :=
  let old := s.mach.mstatus
  let r := merge mstatusWritable w old
  let r := setField r 11 2 (legalize [0, 1, 3] (field w 11 2) (Config.legalizeMpp w old))
  match s.cfg.hsxlen with
  | .x32 => r
  | .x64 => setField (merge 0xC000000000 w r) 32 2 (uxlImage s.cfg .x64 w old)

/-- The modes of `VSATP_MODES` that exist at a width: Bare and Sv32, or Bare, Sv39 and Sv48 (10_state.md R127). -/
def vsatpModesAt (c : Config) (x : Xlen) : List Nat :=
  c.vsatpModes.filter fun m =>
    match x with
    | .x32 => decide (m ≤ 1)
    | .x64 => m == 0 || m == 8 || m == 9

/-- `vsatp` with a MODE and the ASID and PPN of a written value, both WARL (10_state.md R128, 93 U3). -/
def State.vsatpFields (s : State) (w : Word) (mode : Nat) : Word :=
  let x := s.vsxlen
  satpImage x mode
    (warlField .vsatpAsid (asidWidth x) s.cfg.asidlen (satpAsid x w) w s.vs.vsatp)
    (warlField .vsatpPpn (ppnWidth x) s.cfg.vsatpPpnBits (satpPpn x w) w s.vs.vsatp)

/-- `vsatp` with every field of a written value legalized at VSXLEN (10_state.md R128, 00_scope.md R11). -/
def State.vsatpLegal (s : State) (w : Word) : Word :=
  s.vsatpFields w
    (legalize (vsatpModesAt s.cfg s.vsxlen) (satpMode s.vsxlen w) (Config.legalizeVsatpMode w s.vs.vsatp))

/-- Write of `vsatp`: at V = 0 its fields are WARL; through `satp` at V = 1 an unsupported MODE makes the write have no
effect (10_state.md R128, 40_csr_access.md R227). -/
def State.vsatpImage (s : State) (w : Word) : Word :=
  if s.v && !(vsatpModesAt s.cfg s.vsxlen).contains (satpMode s.vsxlen w) then s.vs.vsatp else s.vsatpLegal w

/-- The VS CSRs after a write of `hstatus` over a VSXLEN of `old`: where the width changed, `vsatp` reads a legal value at the
new one (00_scope.md R11; which is the model's choice, log 16) and a UXL that came to exist takes the widest supported width
(10_state.md R109). -/
def State.resizeVs (s : State) (old : Xlen) : State :=
  if s.vsxlen = old then s
  else
    { s with
      vs := { s.vs with
        vsstatus := if old = .x32 then setField s.vs.vsstatus 32 2 (widestUxl s.cfg) else s.vs.vsstatus
        vsatp := s.vsatpLegal s.vs.vsatp } }

/-- Write of `hstatus`: an illegal VGEIN is refused, but VGEIN is hardwired when GEILEN = 0 (10_state.md R38, 00_scope.md
R12, R13, log 12). -/
def State.writeHstatus (s : State) (w : Word) : Except Refusal State :=
  if s.cfg.geilen ≠ 0 ∧ s.cfg.geilen < field w 12 6 then .error (.wlrlIllegalValue "hstatus.VGEIN")
  else .ok ({ s with hyp := { s.hyp with hstatus := s.hstatusImage w } }.resizeVs s.vsxlen)

/-- Write of the HS-level `satp`: an unsupported MODE makes the write have no effect (10_state.md R128, G10); ASID and PPN
are stored as those of `vsatp` are (log 23). -/
def State.satpImageOf (s : State) (w : Word) : Word :=
  let x := s.cfg.hsxlen
  if (vsatpModesAt s.cfg x).contains (satpMode x w) then
    satpImage x (satpMode x w)
      (warlField .satpAsid (asidWidth x) s.cfg.asidlen (satpAsid x w) w s.sup.satp)
      (warlField .satpPpn (ppnWidth x) (s.cfg.paBits - 12) (satpPpn x w) w s.sup.satp)
  else s.sup.satp

def State.setHyp (s : State) (h : HypCsrs) : State := { s with hyp := h }
def State.setVs (s : State) (v : VsCsrs) : State := { s with vs := v }
def State.setSup (s : State) (p : SupCsrs) : State := { s with sup := p }
def State.setMach (s : State) (m : MachCsrs) : State := { s with mach := m }

/-- `vsie` written: bit k updates `hie` bit k + 1 when `hideleg` delegates it (10_state.md R119). -/
def State.mieOfVsie (s : State) (w : Word) : Word := merge s.hidelegBits (w <<< 1) s.mach.mie

/-- `vsip` written: bit 1 updates `hvip.VSSIP` when `hideleg[2]` is set (10_state.md R119). -/
def State.hvipOfVsip (s : State) (w : Word) : Word := merge (s.hidelegBits &&& bitMask 2) (w <<< 1) s.hyp.hvip

/-- `WriteCsr` (40_csr_access.md R227; the base CSRs' rules are PRESUMED, log 10). -/
def State.writeCsr (s : State) (c : Csr) (w : Word) : Except Refusal State :=
  let h := s.cfg.hsxlen
  let g := s.vsxlen
  match c with
  | .hstatus => s.writeHstatus w
  | .hedeleg => .ok (s.setHyp { s.hyp with hedeleg := w &&& hedelegMask s.cfg })
  | .hideleg => .ok (s.setHyp { s.hyp with hideleg := w &&& vsMask })
  | .hie => .ok (s.setMach { s.mach with mie := merge (hieMask s.cfg) w s.mach.mie })
  | .htimedelta =>
    .ok (s.setHyp { s.hyp with
      htimedelta := match h with | .x64 => w | .x32 => merge 0xFFFFFFFF w s.hyp.htimedelta })
  | .hcounteren => .ok (s.setHyp { s.hyp with hcounteren := w.setWidth 32 &&& s.cfg.hcounterenMask })
  | .hgeie => .ok (s.setHyp { s.hyp with hgeie := w &&& geiMask s.cfg })
  | .htimedeltah => .ok (s.setHyp { s.hyp with htimedelta := merge 0xFFFFFFFF00000000 (w <<< 32) s.hyp.htimedelta })
  | .htval => .ok (s.setHyp { s.hyp with htval := legalizeHtval s.cfg w s.hyp.htval })
  | .hip => .ok (s.setHyp { s.hyp with hvip := merge (bitMask 2) w s.hyp.hvip })
  | .hvip => .ok (s.setHyp { s.hyp with hvip := w &&& vsMask })
  | .htinst => .ok (s.setHyp { s.hyp with htinst := legalizeHtinst s.cfg w s.hyp.htinst })
  | .hgatp => .ok (s.setHyp { s.hyp with hgatp := s.hgatpImage w })
  | .hgeip => .ok s
  | .vsstatus => .ok (s.setVs { s.vs with vsstatus := s.vsstatusImage w })
  | .vsie => .ok (s.setMach { s.mach with mie := s.mieOfVsie w })
  | .vstvec => .ok (s.setVs { s.vs with vstvec := tvecImage g w })
  | .vsscratch => .ok (s.setVs { s.vs with vsscratch := fit g w })
  | .vsepc => .ok (s.setVs { s.vs with vsepc := epcImage s.cfg g w })
  | .vscause =>
    if causeLegal g w then .ok (s.setVs { s.vs with vscause := fit g w }) else .error (.wlrlIllegalValue "vscause")
  | .vstval => .ok (s.setVs { s.vs with vstval := fit g w })
  | .vsip => .ok (s.setHyp { s.hyp with hvip := s.hvipOfVsip w })
  | .vsatp => .ok (s.setVs { s.vs with vsatp := s.vsatpImage w })
  | .sstatus => .ok (s.setMach { s.mach with mstatus := s.sstatusImage w })
  | .sie => .ok (s.setMach { s.mach with mie := merge supMask w s.mach.mie })
  | .stvec => .ok (s.setSup { s.sup with stvec := tvecImage h w })
  | .scounteren => .ok (s.setSup { s.sup with scounteren := w.setWidth 32 })
  | .sscratch => .ok (s.setSup { s.sup with sscratch := fit h w })
  | .sepc => .ok (s.setSup { s.sup with sepc := epcImage s.cfg h w })
  | .scause => .ok (s.setSup { s.sup with scause := causeImage h w s.sup.scause })
  | .stval => .ok (s.setSup { s.sup with stval := fit h w })
  | .sip => .ok (s.setMach { s.mach with mip := merge (bitMask 1) w s.mach.mip })
  | .satp => .ok (s.setSup { s.sup with satp := s.satpImageOf w })
  | .mstatus => .ok (s.setMach { s.mach with mstatus := s.mstatusImage w })
  | .misa => if bit w 7 then .ok s else .error .misaClearsH
  | .medeleg => .ok (s.setMach { s.mach with medeleg := w &&& medelegMask })
  | .mideleg => .ok (s.setMach { s.mach with mideleg := (w &&& supMask) ||| 0x1444 })
  | .mie => .ok (s.setMach { s.mach with mie := w &&& mieMask s.cfg })
  | .mtvec => .ok (s.setMach { s.mach with mtvec := tvecImage h w })
  | .mcounteren => .ok (s.setMach { s.mach with mcounteren := w.setWidth 32 })
  | .mstatush => .ok (s.setMach { s.mach with mstatus := merge 0xC000000000 (w <<< 32) s.mach.mstatus })
  | .mscratch => .ok (s.setMach { s.mach with mscratch := fit h w })
  | .mepc => .ok (s.setMach { s.mach with mepc := epcImage s.cfg h w })
  | .mcause => .ok (s.setMach { s.mach with mcause := causeImage h w s.mach.mcause })
  | .mtval => .ok (s.setMach { s.mach with mtval := fit h w })
  | .mip =>
    .ok ((s.setMach { s.mach with mip := w &&& supMask }).setHyp { s.hyp with hvip := merge (bitMask 2) w s.hyp.hvip })
  | .mtinst => .ok (s.setMach { s.mach with mtinst := legalizeHtinst s.cfg w s.mach.mtinst })
  | .mtval2 => .ok (s.setMach { s.mach with mtval2 := legalizeHtval s.cfg w s.mach.mtval2 })
  | .counter _ => .ok s
  | .counterh _ => .ok s

end Sys2Proof.Machine
end

