-- ==== Sys2Proof/Machine/CsrInstr.lean ====
section
/-! DEFINITION. The six CSR instructions over one common procedure (40_csr_access.md R210, R221 to R226). -/

namespace Sys2Proof.Machine

open Sys2Proof

/-- `CsrAccess` (40_csr_access.md R210): the checks, the read, the write of a value made from the old one, `x[rd]`, the pc.
`rd` is x0 where no read is wanted, so the old value is then discarded. -/
def State.csrAccess (s : State) (word : InstrWord) (a : CsrAddr) (rd : Reg) (wantWrite : Bool) (newval : Word → Word) :
    Host.Outcome State Fault Refusal :=
  match s.resolveCsr a wantWrite with
  | .error code => .next (s.raiseBarred code word)
  | .ok c =>
    let old := s.readCsr c
    if wantWrite then
      match s.writeCsr c (newval old) with
      | .error r => .refused r
      | .ok s' => .next ((s'.setX rd (fit s.xlen old)).advance)
    else .next ((s.setX rd (fit s.xlen old)).advance)

/-- CSRRW (40_csr_access.md R221). -/
def execCsrrw (rd : Reg) (csr : CsrAddr) (rs1 : Reg) (s : State) : Host.Outcome State Fault Refusal :=
  s.csrAccess (encode (.csrrw rd csr rs1)) csr rd true fun _ => s.x rs1

/-- CSRRS (40_csr_access.md R222): a write is wanted exactly when rs1 is not x0. -/
def execCsrrs (rd : Reg) (csr : CsrAddr) (rs1 : Reg) (s : State) : Host.Outcome State Fault Refusal :=
  s.csrAccess (encode (.csrrs rd csr rs1)) csr rd (rs1 != 0) fun old => old ||| s.x rs1

/-- CSRRC (40_csr_access.md R223). -/
def execCsrrc (rd : Reg) (csr : CsrAddr) (rs1 : Reg) (s : State) : Host.Outcome State Fault Refusal :=
  s.csrAccess (encode (.csrrc rd csr rs1)) csr rd (rs1 != 0) fun old => old &&& ~~~(s.x rs1)

/-- CSRRWI (40_csr_access.md R224). -/
def execCsrrwi (rd : Reg) (csr : CsrAddr) (uimm : BitVec 5) (s : State) : Host.Outcome State Fault Refusal :=
  s.csrAccess (encode (.csrrwi rd csr uimm)) csr rd true fun _ => uimmValue uimm

/-- CSRRSI (40_csr_access.md R225). -/
def execCsrrsi (rd : Reg) (csr : CsrAddr) (uimm : BitVec 5) (s : State) : Host.Outcome State Fault Refusal :=
  s.csrAccess (encode (.csrrsi rd csr uimm)) csr rd (uimm != 0) fun old => old ||| uimmValue uimm

/-- CSRRCI (40_csr_access.md R226). -/
def execCsrrci (rd : Reg) (csr : CsrAddr) (uimm : BitVec 5) (s : State) : Host.Outcome State Fault Refusal :=
  s.csrAccess (encode (.csrrci rd csr uimm)) csr rd (uimm != 0) fun old => old &&& ~~~(uimmValue uimm)

end Sys2Proof.Machine
end

