-- ==== Sys2Proof/Machine/Translate.lean ====
section
/-! DEFINITION. Translated memory access (20_memory.md R150 to R165): the instance of `Translate2` that R164 describes,
with the cached copies of page-table entries of 10_state.md R137 held in State and dropped by the fences
(42_privileged.md R290, R294, R296). The table format and the permission checks are PRESUMED from the family where
R157 and R164 only name them (log 17, 20). -/

namespace Sys2Proof.Machine

open Sys2Proof

/-! ## Access records (20_memory.md R150, R151) -/

/-- The kind of an access (20_memory.md R150). -/
inductive AccKind where
  | load
  /-- A load of HLVX: execute permission in place of read permission (41_vm_load_store.md R253). -/
  | loadX
  | store
  | fetch
  deriving DecidableEq, Repr

/-- `acc` (20_memory.md R150). -/
structure Access where
  effV : Bool
  effPriv : Priv
  kind : AccKind
  be : Bool
  deriving DecidableEq, Repr

/-- The access record of HLV, HLVX and HSV: as though at V = 1, with the privilege SPVP names and its byte order
(41_vm_load_store.md R252, 20_memory.md R144). -/
def State.virtAccess (s : State) (k : AccKind) : Access :=
  { effV := true
    effPriv := privOfBit s.spvp
    kind := k
    be := if s.spvp then s.vsbe else s.vsUbe }

/-- The access record of an instruction fetch: the current mode, little-endian (20_memory.md R146, R151 (a), (d)). -/
def State.fetchAccess (s : State) : Access :=
  { effV := s.v, effPriv := s.priv, kind := .fetch, be := false }

/-- The access record of an ordinary load or store (20_memory.md R151): in M-mode with MPRV set it uses MPP and MPV. No
instruction of the table is one; it is stated for the base ISA to use (log 32). -/
def State.ordinaryAccess (s : State) (k : AccKind) : Access :=
  let p := if s.priv = .m ∧ s.mstatusMprv = true then privOfCode s.mstatusMpp else s.priv
  let v := if s.priv = .m ∧ s.mstatusMprv = true then p != .m && s.mstatusMpv else s.v
  { effV := v
    effPriv := p
    kind := k
    be := if v then (if p = .s then s.vsbe else s.vsUbe) else false }

/-- A failed access (20_memory.md R161). -/
inductive AccFault where
  | page
  | guestPage (g : GuestFault)
  | access
  | misaligned
  deriving DecidableEq, Repr

/-- The exception code of a failed access (20_memory.md R161; HLVX uses the load codes, 41_vm_load_store.md R253). -/
def AccFault.code (f : AccFault) (k : AccKind) : Nat :=
  match f, k with
  | .page, .fetch => excInstrPage
  | .page, .store => excStorePage
  | .page, _ => excLoadPage
  | .guestPage _, .fetch => excInstrGuestPage
  | .guestPage _, .store => excStoreGuestPage
  | .guestPage _, _ => excLoadGuestPage
  | .access, .fetch => excInstrAccess
  | .access, .store => excStoreAccess
  | .access, _ => excLoadAccess
  | .misaligned, .fetch => excInstrMisaligned
  | .misaligned, .store => excStoreMisaligned
  | .misaligned, _ => excLoadMisaligned

/-- An answer of the translation hardware: a value or a fault, and the state after the implicit accesses made on the way
(41_vm_load_store.md R254). -/
inductive Answer (α : Type) where
  | ok (value : α) (s : State)
  | fault (f : AccFault) (s : State)

/-- One answer after another. -/
def Answer.andThen {α β : Type} (a : Answer α) (k : α → State → Answer β) : Answer β :=
  match a with
  | .ok x s => k x s
  | .fault f s => .fault f s

/-! ## Paging schemes (20_memory.md R157, R159, R164) -/

/-- A paged scheme: levels, index bits of a level, bytes of an entry, whether the root is widened by 2 bits. -/
structure Scheme where
  levels : Nat
  idxBits : Nat
  pteBytes : Nat
  wide : Bool
  deriving DecidableEq, Repr

/-- The scheme a MODE names, none for Bare (10_state.md R99, R127). -/
def schemeOf (x : Xlen) (mode : Nat) (wide : Bool) : Option Scheme :=
  match x with
  | .x32 => if mode = 1 then some ⟨2, 10, 4, wide⟩ else none
  | .x64 => if mode = 8 then some ⟨3, 9, 8, wide⟩ else if mode = 9 then some ⟨4, 9, 8, wide⟩ else none

/-- The width of the addresses a scheme translates (20_memory.md R141). -/
def Scheme.inputBits (c : Scheme) : Nat := 12 + c.idxBits * c.levels + (if c.wide then 2 else 0)

/-- Whether an address is one the scheme translates: a guest physical address has zeros above the scheme's width
(20_memory.md R164), a virtual address of a 64-bit scheme copies its top bit upwards (PRESUMED, log 20). -/
def Scheme.inRange (c : Scheme) (x : Xlen) (a : Nat) : Bool :=
  let top := a / 2 ^ (c.inputBits - 1)
  if c.wide then decide (a < 2 ^ c.inputBits)
  else top == 0 || top == 2 ^ (x.bits - c.inputBits + 1) - 1

/-- The table index of an address at a level; the root of a widened scheme has 2 more bits (20_memory.md R164). -/
def Scheme.index (c : Scheme) (level a : Nat) : Nat :=
  let bits := if c.wide ∧ level + 1 = c.levels then c.idxBits + 2 else c.idxBits
  a / 2 ^ (12 + c.idxBits * level) % 2 ^ bits

/-- The levels a walk visits, root first. -/
def Scheme.walkLevels (c : Scheme) : List Nat := (List.range c.levels).reverse

/-! ### Page-table entries (20_memory.md R164: V, R, W, X, U, G, A, D in bits 0 to 7, PPN from bit 10) -/

def pteV (p : Word) : Bool := bit p 0
def pteR (p : Word) : Bool := bit p 1
def pteW (p : Word) : Bool := bit p 2
def pteX (p : Word) : Bool := bit p 3
def pteU (p : Word) : Bool := bit p 4
def pteA (p : Word) : Bool := bit p 6
def pteD (p : Word) : Bool := bit p 7

/-- The page number an entry holds. -/
def Scheme.ptePpn (c : Scheme) (p : Word) : Nat := if c.pteBytes = 4 then field p 10 22 else field p 10 44

/-- What an entry read at a level means for an address. -/
inductive PteUse where
  | invalid
  | table (base : Nat)
  | leaf (addr : Nat)
  deriving DecidableEq, Repr

/-- An entry is invalid with V clear, with W set and R clear, with reserved upper bits set, as a pointer at the last
level, and as a misaligned superpage (PRESUMED, log 20). -/
def Scheme.usePte (c : Scheme) (level : Nat) (p : Word) (a : Nat) : PteUse :=
  let ppn := c.ptePpn p
  let low := 2 ^ (c.idxBits * level)
  if !pteV p || (pteW p && !pteR p) || (c.pteBytes == 8 && field p 54 10 != 0) then .invalid
  else if !pteR p && !pteX p then (if level = 0 then .invalid else .table (ppn * 4096))
  else if ppn % low ≠ 0 then .invalid
  else .leaf ((ppn + a / 4096 % low) * 4096 + a % 4096)

/-- Whether an entry's permissions allow an access; MXR lets a load read an executable page, HLVX needs execute
permission (20_memory.md R164, 41_vm_load_store.md R253, R270). -/
def permits (k : AccKind) (mxr : Bool) (p : Word) : Bool :=
  match k with
  | .load => pteR p || (mxr && pteX p)
  | .loadX => pteX p
  | .store => pteW p
  | .fetch => pteX p

/-- Whether the entry's U bit allows the privilege: U needs it set, S needs it clear unless SUM allows a data access
(41_vm_load_store.md R270, 10_state.md R108). -/
def privAllows (k : AccKind) (priv : Priv) (sum : Bool) (p : Word) : Bool :=
  match priv with
  | .u => pteU p
  | _ => !pteU p || (sum && k != .fetch)

/-- Whether an access finds its accessed or dirty bit clear (20_memory.md R152). -/
def needsAD (k : AccKind) (p : Word) : Bool := !pteA p || (k == .store && !pteD p)

/-- The entry with its accessed bit, and on a store its dirty bit, set. -/
def withAD (k : AccKind) (p : Word) : Word := p ||| 0x40 ||| (if k = .store then 0x80 else 0)

/-! ## Cached copies (10_state.md R137, 20_memory.md R160, R165) -/

def tlbFind (t : List TlbEntry) (k : TlbKey) : Option Word :=
  match t with
  | [] => none
  | e :: rest => if e.key = k then some e.pte else tlbFind rest k

/-- With a copy of an entry read from the page `table` in place of the key's old one. -/
def tlbInsert (t : List TlbEntry) (k : TlbKey) (p : Word) (table : Nat) : List TlbEntry :=
  ⟨k, p, table⟩ :: t.filter (fun e => e.key != k)

def State.setTlb (s : State) (t : List TlbEntry) : State := { s with tlb := t }

/-- The entry for a key: the cached copy, if there is one, it serves the access and the free choice takes it; else
`read`, whose answer, an entry of the page `table`, is then cached. -/
def State.cachedPte (s : State) (key : TlbKey) (table : Nat) (serves : Word → Bool) (read : State → Answer Word) :
    Answer Word :=
  let refill := (read s).andThen fun p s' => .ok p (s'.setTlb (tlbInsert s'.tlb key p table))
  match tlbFind s.tlb key with
  | some p => if Config.useCached s.tick key && serves p then .ok p s else refill
  | none => refill

/-! ## The walk -/

/-- What a walk needs of its stage. -/
structure WalkCtx where
  scheme : Scheme
  key : Nat → TlbKey
  input : Nat
  kind : AccKind
  /-- The fault of an invalid or forbidding entry. -/
  failure : AccFault
  /-- The permission check of a leaf. -/
  allows : Word → Bool
  /-- The supervisor physical addresses of the bytes of the entry at an address, for reading or writing. -/
  locate : Bool → Nat → State → Answer (List Nat)
  /-- The byte order of the stage's entries. -/
  be : Bool

/-- Read an entry from memory. -/
def WalkCtx.readPte (c : WalkCtx) (addr : Nat) (s : State) : Answer Word :=
  (c.locate false addr s).andThen fun spas s' => .ok (valueOfBytes c.be (s'.memRead spas)) s'

/-- Write an entry back with its accessed or dirty bit set, in memory and in the cached copy. -/
def WalkCtx.writePte (c : WalkCtx) (level addr : Nat) (p : Word) (s : State) : Answer Unit :=
  (c.locate true addr s).andThen fun spas s' =>
    let s'' := s'.memWrite (spas.zip (bytesOfValue c.be c.scheme.pteBytes p))
    .ok () (s''.setTlb (tlbInsert s''.tlb (c.key level) p (addr / 4096)))

/-- The address of the entry a walk looks at in the table at `base`. -/
def WalkCtx.entryAddr (c : WalkCtx) (level base : Nat) : Nat :=
  base + c.scheme.index level c.input * c.scheme.pteBytes

/-- The entry a walk finds in the table at `base`: a cached copy or memory's. A copy serves unless its accessed or dirty
bit has to be set in memory (20_memory.md R152, R160). -/
def WalkCtx.entry (c : WalkCtx) (level base : Nat) (s : State) : Answer Word :=
  let addr := c.entryAddr level base
  s.cachedPte (c.key level) (addr / 4096) (fun p => !s.cfg.hwUpdatesAD || !needsAD c.kind p) (c.readPte addr)

/-- The walk from a table at `base` through the remaining levels (20_memory.md R157, R159). Where the implementation sets
accessed and dirty bits, it does so at the leaf, before what follows can fault (DESIGN CHOICE, log 19). -/
def WalkCtx.walk (c : WalkCtx) : List Nat → Nat → State → Answer Nat
  | [], _, s => .fault c.failure s
  | level :: rest, base, s =>
    (c.entry level base s).andThen fun p s' =>
      match c.scheme.usePte level p c.input with
      | .invalid => .fault c.failure s'
      | .table next => c.walk rest next s'
      | .leaf a =>
        if !c.allows p then .fault c.failure s'
        else if !needsAD c.kind p then .ok a s'
        else if !s'.cfg.hwUpdatesAD then .fault c.failure s'
        else (c.writePte level (c.entryAddr level base) (withAD c.kind p) s').andThen fun _ s'' => .ok a s''

/-- The addresses of `n` bytes from `a` as supervisor physical addresses that are memory; else an access fault
(20_memory.md R155, R161). -/
def State.physical (s : State) (a n : Nat) : Answer (List Nat) :=
  let spas := (List.range n).map (a + ·)
  if spas.all (isMemory s.cfg) then .ok spas s else .fault .access s

/-- The walk of the G-stage: every access is checked as a user-level one (20_memory.md R164). `implicit` marks an access the
VS-stage makes, which reports its own address (20_memory.md R158, R162). -/
def State.gWalk (s : State) (sch : Scheme) (gpa : Nat) (k : AccKind) (mxr implicit : Bool) (pteBytes : Nat) : WalkCtx where
  scheme := sch
  key := fun level => ⟨.gStage, s.hgatpVmid, 0, gpa / 4096, level⟩
  input := gpa
  kind := k
  failure := .guestPage ⟨gpa, implicit, pteBytes, k == .store⟩
  allows := fun p => pteU p && permits k mxr p
  locate := fun _ a t => t.physical a sch.pteBytes
  be := false

/-- The G-stage: a guest physical address to a supervisor physical address (20_memory.md R159, R164), by the MODE `hgatp` holds
now (DESIGN CHOICE, log 18). -/
def State.gStage (s : State) (gpa : Nat) (k : AccKind) (mxr implicit : Bool) (pteBytes : Nat) : Answer Nat :=
  match schemeOf s.cfg.hsxlen s.hgatpMode true with
  | none => .ok gpa s
  | some sch =>
    let c := s.gWalk sch gpa k mxr implicit pteBytes
    if !sch.inRange s.cfg.hsxlen gpa then .fault c.failure s else c.walk sch.walkLevels (s.hgatpPpn * 4096) s

/-- The walk of the VS-stage: SUM and MXR of `vsstatus`, MXR of the HS-level `sstatus` too (41_vm_load_store.md R270). Its
entries are read through the G-stage, where the HS-level MXR applies as well (20_memory.md R158, R164), in the byte order of
VSBE (R143). -/
def State.vsWalk (s : State) (sch : Scheme) (gva : Nat) (acc : Access) : WalkCtx where
  scheme := sch
  key := fun level => ⟨.vsStage, s.hgatpVmid, satpAsid s.vsxlen s.vs.vsatp, gva / 4096, level⟩
  input := gva
  kind := acc.kind
  failure := .page
  allows := fun p => privAllows acc.kind acc.effPriv s.vsSum p && permits acc.kind (s.vsMxr || s.mxr) p
  locate := fun write a t =>
    (t.gStage a (if write then .store else .load) s.mxr true sch.pteBytes).andThen fun spa t' =>
      t'.physical spa sch.pteBytes
  be := s.vsbe

/-- The VS-stage: a guest virtual address to a guest physical address (20_memory.md R157, R158). -/
def State.vsStage (s : State) (gva : Nat) (acc : Access) : Answer Nat :=
  match schemeOf s.vsxlen (satpMode s.vsxlen s.vs.vsatp) false with
  | none => .ok gva s
  | some sch =>
    if !sch.inRange s.vsxlen gva then .fault .page s
    else (s.vsWalk sch gva acc).walk sch.walkLevels (satpPpn s.vsxlen s.vs.vsatp * 4096) s

/-- The single stage of an access with effective virtualization mode 0, under `satp` (20_memory.md R142; the base
architecture's, PRESUMED, log 17). M-mode is never translated (20_memory.md R150). -/
def State.singleStage (s : State) (va : Nat) (acc : Access) : Answer Nat :=
  let x := s.cfg.hsxlen
  match acc.effPriv, schemeOf x (satpMode x s.sup.satp) false with
  | .m, _ => .ok va s
  | _, none => .ok va s
  | p, some sch =>
    if !sch.inRange x va then .fault .page s
    else
      let ctx : WalkCtx :=
        { scheme := sch
          key := fun level => ⟨.single, 0, satpAsid x s.sup.satp, va / 4096, level⟩
          input := va
          kind := acc.kind
          failure := .page
          allows := fun q => privAllows acc.kind p s.sum q && permits acc.kind s.mxr q
          locate := fun _ a t => t.physical a sch.pteBytes
          be := false }
      ctx.walk sch.walkLevels (satpPpn x s.sup.satp * 4096) s

/-- `Translate2` (20_memory.md R150, R156, R160), and the single stage at effective virtualization mode 0. A guest
virtual address is VSXLEN bits wide (R141); that an address given with 64 bits loses its upper half where VSXLEN
is 32, and that one given with 32 bits is zero-extended where VSXLEN is 64, is the model's choice (DESIGN CHOICE, log 16). -/
def State.translate (s : State) (va : Word) (acc : Access) : Answer Nat :=
  if acc.effV then
    (s.vsStage (fit s.vsxlen va).toNat acc).andThen fun gpa s' => s'.gStage gpa acc.kind s'.mxr false 0
  else s.singleStage va.toNat acc

/-! ## Accesses (20_memory.md R150) -/

/-- An answer that names the address of the faulting portion (20_memory.md R148, R149). -/
inductive Located (α : Type) where
  | ok (value : α) (s : State)
  | fault (f : AccFault) (at_ : Word) (s : State)

/-- One portion of an access: translated, then found to be memory. A fault reports the portion's first address, also when
only later bytes are no memory (DESIGN CHOICE, log 36). -/
def State.portion (s : State) (va : Word) (n : Nat) (acc : Access) : Located (List Nat) :=
  match (s.translate va acc).andThen fun spa s' => s'.physical spa n with
  | .ok spas s' => .ok spas s'
  | .fault f s' => .fault f va s'

/-- The supervisor physical addresses of an access of `n` bytes, translated once for each page touched (20_memory.md
R150): the lower part is checked in full before the upper one is translated, so its fault, an access fault too, comes first
(DESIGN CHOICE, log 36). -/
def State.locate (s : State) (va : Word) (n : Nat) (acc : Access) : Located (List Nat) :=
  let room := 4096 - va.toNat % 4096
  if n ≤ room then s.portion va n acc
  else
    match s.portion va room acc with
    | .fault f a s' => .fault f a s'
    | .ok first s' =>
      match s'.portion (fit (if acc.effV then s.vsxlen else s.xlen) (va + BitVec.ofNat 64 room)) (n - room) acc with
      | .fault f a s'' => .fault f a s''
      | .ok second s'' => .ok (first ++ second) s''

/-- `VMemRead` (20_memory.md R150). -/
def State.vmemRead (s : State) (va : Word) (n : Nat) (acc : Access) : Located Word :=
  match s.locate va n acc with
  | .fault f a s' => .fault f a s'
  | .ok spas s' => .ok (valueOfBytes acc.be (s'.memRead spas)) s'

/-- `VMemWrite` (20_memory.md R150): no byte is written unless all of them are. -/
def State.vmemWrite (s : State) (va : Word) (n : Nat) (w : Word) (acc : Access) : Located Unit :=
  match s.locate va n acc with
  | .fault f a s' => .fault f a s'
  | .ok spas s' => .ok () (s'.memWrite (spas.zip (bytesOfValue acc.be n w)))

/-- The trap of a failed access at an address: the address is the trap value, a guest virtual one when the access had
effective virtualization mode 1 (20_memory.md R161, 60_exceptions.md R353). -/
def accessTrap (f : AccFault) (acc : Access) (at_ : Word) (transformed : Word) : Trap :=
  { isInt := false
    code := f.code acc.kind
    tval := at_
    tvalIsGva := acc.effV
    guest := match f with | .guestPage g => some g | _ => none
    transformed := transformed }

/-! ## Fences (42_privileged.md R290, R294, R296) -/

/-- A cached copy of the single stage in the scope of SFENCE.VMA at V = 0: an address and an identifier, each optional
(42_privileged.md R290). -/
def singleScope (page asid : Option Nat) (e : TlbEntry) : Bool :=
  e.key.stage == .single && (page.isNone || page == some e.key.page) && (asid.isNone || asid == some e.key.asid)

/-- A cached copy of the VS-stage in the scope of SFENCE.VMA in VS-mode or HFENCE.VVMA (42_privileged.md R290, R296). -/
def vsScope (vmid : Nat) (page asid : Option Nat) (e : TlbEntry) : Bool :=
  e.key.stage == .vsStage && e.key.vmid == vmid && (page.isNone || page == some e.key.page) &&
    (asid.isNone || asid == some e.key.asid)

/-- The guest physical page whose G-stage translation a cached copy comes from: the page translated, for a copy of the
G-stage; the page of the table it was read from, for one of the VS-stage; none for the single stage (log 40). -/
def TlbEntry.guestPage (e : TlbEntry) : Option Nat :=
  match e.key.stage with
  | .gStage => some e.key.page
  | .vsStage => some e.table
  | .single => none

/-- A cached copy in the scope of HFENCE.GVMA: a guest physical page and a VMID, each optional (42_privileged.md R294). -/
def gScope (page vmid : Option Nat) (e : TlbEntry) : Bool :=
  e.guestPage.isSome && (vmid.isNone || vmid == some e.key.vmid) && (page.isNone || page == e.guestPage)

/-- `TLB.flush(scope)`: the cached copies in the scope are dropped. -/
def State.flush (s : State) (scope : TlbEntry → Bool) : State := s.setTlb (s.tlb.filter fun e => !scope e)

end Sys2Proof.Machine
end

