-- ==== Sys2Proof/Machine/Privileged.lean ====
section
/-! DEFINITION. ECALL, EBREAK, SRET, MRET, WFI and the three fences (42_privileged.md R280 to R299, 60_exceptions.md
R358). Each bar is the exception code that stops the instruction in a mode (42_privileged.md R306). -/

namespace Sys2Proof.Machine

open Sys2Proof

/-- Raise the exception that bars an instruction in this mode, or do what it does. -/
def State.unlessBarred (s : State) (i : Instr) (bar : Option Nat) (effect : State) : Host.Outcome State Fault Refusal :=
  match bar with
  | some code => .next (s.raiseBarred code (encode i))
  | none => .next effect

/-! ## ECALL and EBREAK -/

/-- The exception code of an ECALL in the current mode (42_privileged.md R298). -/
def State.ecallCode (s : State) : Nat :=
  match s.priv with
  | .u => excEcallU
  | .s => if s.v then excEcallVS else excEcallHS
  | .m => excEcallM

/-- ECALL (42_privileged.md R298). -/
def execEcall (s : State) : Host.Outcome State Fault Refusal :=
  .next (s.raise { isInt := false, code := s.ecallCode, tval := 0, tvalIsGva := false })

/-- The breakpoint trap: the trap value is the pc or 0, freely; GVA is set when it is a guest virtual address
(42_privileged.md R299, 60_exceptions.md R353). -/
def State.breakpointTrap (s : State) : Trap :=
  { isInt := false
    code := excBreakpoint
    tval := if Config.drawTval s.tick then s.pc else 0
    tvalIsGva := Config.drawTval s.tick && s.v }

/-- EBREAK (42_privileged.md R299). -/
def execEbreak (s : State) : Host.Outcome State Fault Refusal := .next (s.raise s.breakpointTrap)

/-! ## SRET and MRET -/

/-- What bars SRET (42_privileged.md R281 to R283). -/
def State.sretBar (s : State) : Option Nat :=
  match s.v, s.priv with
  | true, .u => some excVirtual
  | true, _ => if s.vtsr then some excVirtual else none
  | false, .u => some excIllegal
  | false, .s => if s.mstatusTsr then some excIllegal else none
  | false, .m => none

/-- SRET (42_privileged.md R280 to R284). -/
def execSret (s : State) : Host.Outcome State Fault Refusal :=
  s.unlessBarred .sret s.sretBar (if s.v then s.returnGuest else s.returnHyper)

/-- MRET (60_exceptions.md R358). -/
def execMret (s : State) : Host.Outcome State Fault Refusal :=
  s.unlessBarred .mret (if s.priv = .m then none else some excIllegal) s.returnMachine

/-! ## WFI -/

/-- What a WFI that exceeds its time limit raises, if the mode bounds it (42_privileged.md R287, R288). -/
def State.wfiLimitCode (s : State) : Option Nat :=
  if s.priv = .m then none
  else if s.mstatusTw then some excIllegal
  else
    match s.v, s.priv with
    | true, .s => if s.vtw then some excVirtual else none
    | true, _ => some excVirtual
    | false, .u => some excIllegal
    | false, _ => none

/-- WFI (42_privileged.md R286 to R288): whether it exceeds its limit is free; a completing WFI only moves on. -/
def execWfi (s : State) : Host.Outcome State Fault Refusal :=
  match s.wfiLimitCode with
  | none => .next s.advance
  | some code => .next (if Config.wfiTimeout s.tick then s.raiseBarred code (encode .wfi) else s.advance)

/-! ## Fences -/

/-- The page of an address operand, none for x0 (42_privileged.md R290). -/
def State.pageOperand (s : State) (x : Xlen) (rs1 : Reg) : Option Nat :=
  if rs1 = 0 then none else some ((fit x (s.x rs1)).toNat / 4096)

/-- The ASID operand, none for x0 (42_privileged.md R290): every bit of the field's width is compared, whichever are implemented
(DESIGN CHOICE, log 23). -/
def State.asidOperand (s : State) (x : Xlen) (rs2 : Reg) : Option Nat :=
  if rs2 = 0 then none
  else some (match x with | .x32 => field (s.x rs2) 0 9 | .x64 => field (s.x rs2) 0 16)

/-- The page of a guest physical address operand, which holds the address shifted right by 2 (42_privileged.md R294). -/
def State.gpaPageOperand (s : State) (rs1 : Reg) : Option Nat :=
  if rs1 = 0 then none else some ((s.x rs1).toNat * 4 / 4096)

/-- The VMID operand, none for x0 (42_privileged.md R294): bits of `x[rs2]` at and above VMIDLEN are ignored (DESIGN CHOICE,
log 23). -/
def State.vmidOperand (s : State) (rs2 : Reg) : Option Nat :=
  if rs2 = 0 then none else some ((s.x rs2).toNat % 2 ^ s.cfg.vmidlen)

/-- What bars SFENCE.VMA (42_privileged.md R291, R292). -/
def State.sfenceBar (s : State) : Option Nat :=
  match s.v, s.priv with
  | true, .u => some excVirtual
  | true, _ => if s.vtvm then some excVirtual else none
  | false, .u => some excIllegal
  | false, .s => if s.mstatusTvm then some excIllegal else none
  | false, .m => none

/-- The cached copies VS-level fences drop: of the current virtual machine (42_privileged.md R290, R296). -/
def State.vsFenceScope (s : State) (rs1 rs2 : Reg) : TlbEntry → Bool :=
  vsScope s.hgatpVmid (s.pageOperand s.vsxlen rs1) (s.asidOperand s.vsxlen rs2)

/-- SFENCE.VMA (42_privileged.md R290 to R292). -/
def execSfenceVma (rs1 rs2 : Reg) (s : State) : Host.Outcome State Fault Refusal :=
  s.unlessBarred (.sfenceVma rs1 rs2) s.sfenceBar
    (if s.v then (s.flush (s.vsFenceScope rs1 rs2)).advance
     else (s.flush (singleScope (s.pageOperand s.cfg.hsxlen rs1) (s.asidOperand s.cfg.hsxlen rs2))).advance)

/-- HFENCE.VVMA (42_privileged.md R296). The rule lets a model omit it; this one includes it, INFERRED as the rule asks: its
semantics are PRESUMED (log 42). -/
def execHfenceVvma (rs1 rs2 : Reg) (s : State) : Host.Outcome State Fault Refusal :=
  s.unlessBarred (.hfenceVvma rs1 rs2)
    (if s.v then some excVirtual else if s.priv = .u then some excIllegal else none)
    (s.flush (s.vsFenceScope rs1 rs2)).advance

/-- HFENCE.GVMA (42_privileged.md R294). -/
def execHfenceGvma (rs1 rs2 : Reg) (s : State) : Host.Outcome State Fault Refusal :=
  s.unlessBarred (.hfenceGvma rs1 rs2)
    (if s.v then some excVirtual else if s.priv = .u then some excIllegal
     else if s.priv = .s ∧ s.mstatusTvm = true then some excIllegal else none)
    (s.flush (gScope (s.gpaPageOperand rs1) (s.vmidOperand rs2))).advance

end Sys2Proof.Machine
end

