-- ==== Sys2Proof/Machine/VirtMem.lean ====
section
/-! DEFINITION. The virtual-machine load and store instructions HLV, HLVX and HSV (41_vm_load_store.md R250 to R273). -/

namespace Sys2Proof.Machine

open Sys2Proof

/-- `HCheck` (41_vm_load_store.md R251): the code of the exception that bars the instruction, if one does. On RV32 an RV64-only
form is a reserved encoding and illegal (R262, R264, R268), at V = 1 too (60_exceptions.md R346); elsewhere V = 1 is looked at
first (DEDUCED, log 31). -/
def State.virtMemBar (s : State) (rv64Only : Bool) : Option Nat :=
  if rv64Only ∧ s.cfg.hsxlen = .x32 then some excIllegal
  else if s.v then some excVirtual
  else if s.priv = .u ∧ s.hu = false then some excIllegal
  else if rv64Only ∧ s.xlen = .x32 then some excIllegal
  else none

/-- Whether an address is misaligned for an access that must be aligned (20_memory.md R148). -/
def State.misalignedFor (s : State) (va : Word) (n : Nat) : Bool := !s.cfg.misalignedOk && va.toNat % n != 0

/-- The transformed instruction of a virtual-machine access: its rs1 field holds the offset of the faulting portion from
the address in rs1 (60_exceptions.md R356, G35). -/
def transformedInstr (word : InstrWord) (va at_ : Word) : Word :=
  (merge (fieldMask 15 5) ((at_ - va) <<< 15) (word.setWidth 64)) &&& 0xFFFFFFFF

/-- The trap of a failed virtual-machine access (41_vm_load_store.md R255). -/
def virtMemTrap (f : AccFault) (acc : Access) (word : InstrWord) (va at_ : Word) : Trap :=
  accessTrap f acc at_ (transformedInstr word va at_)

/-- A load of `n` bytes: the checks in the order of 41_vm_load_store.md R254, then `x[rd]`. -/
def State.virtLoad (s : State) (i : Instr) (k : AccKind) (n : Nat) (signed : Bool) (rd rs1 : Reg) :
    Host.Outcome State Fault Refusal :=
  match s.virtMemBar i.rv64Only with
  | some code => .next (s.raiseBarred code (encode i))
  | none =>
    let va := s.x rs1
    let acc := s.virtAccess k
    if s.misalignedFor va n then .next (s.raise (virtMemTrap .misaligned acc (encode i) va va))
    else
      match s.vmemRead va n acc with
      | .fault f a s' => .next (s'.raise (virtMemTrap f acc (encode i) va a))
      | .ok w s' => .next ((s'.setX rd (extendLoaded signed n w)).advance)

/-- A store of the low `n` bytes of `x[rs2]`: the checks in the order of 41_vm_load_store.md R254. -/
def State.virtStore (s : State) (i : Instr) (n : Nat) (rs2 rs1 : Reg) : Host.Outcome State Fault Refusal :=
  match s.virtMemBar i.rv64Only with
  | some code => .next (s.raiseBarred code (encode i))
  | none =>
    let va := s.x rs1
    let acc := s.virtAccess .store
    if s.misalignedFor va n then .next (s.raise (virtMemTrap .misaligned acc (encode i) va va))
    else
      match s.vmemWrite va n (s.x rs2) acc with
      | .fault f a s' => .next (s'.raise (virtMemTrap f acc (encode i) va a))
      | .ok _ s' => .next s'.advance

/-- HLV.B (41_vm_load_store.md R256). -/
def execHlvB (rd rs1 : Reg) (s : State) : Host.Outcome State Fault Refusal :=
  s.virtLoad (.hlvB rd rs1) .load 1 true rd rs1

/-- HLV.BU (41_vm_load_store.md R257). -/
def execHlvBu (rd rs1 : Reg) (s : State) : Host.Outcome State Fault Refusal :=
  s.virtLoad (.hlvBu rd rs1) .load 1 false rd rs1

/-- HLV.H (41_vm_load_store.md R258). -/
def execHlvH (rd rs1 : Reg) (s : State) : Host.Outcome State Fault Refusal :=
  s.virtLoad (.hlvH rd rs1) .load 2 true rd rs1

/-- HLV.HU (41_vm_load_store.md R259). -/
def execHlvHu (rd rs1 : Reg) (s : State) : Host.Outcome State Fault Refusal :=
  s.virtLoad (.hlvHu rd rs1) .load 2 false rd rs1

/-- HLVX.HU (41_vm_load_store.md R260). -/
def execHlvxHu (rd rs1 : Reg) (s : State) : Host.Outcome State Fault Refusal :=
  s.virtLoad (.hlvxHu rd rs1) .loadX 2 false rd rs1

/-- HLV.W (41_vm_load_store.md R261). -/
def execHlvW (rd rs1 : Reg) (s : State) : Host.Outcome State Fault Refusal :=
  s.virtLoad (.hlvW rd rs1) .load 4 true rd rs1

/-- HLV.WU (41_vm_load_store.md R262). -/
def execHlvWu (rd rs1 : Reg) (s : State) : Host.Outcome State Fault Refusal :=
  s.virtLoad (.hlvWu rd rs1) .load 4 false rd rs1

/-- HLVX.WU (41_vm_load_store.md R263). -/
def execHlvxWu (rd rs1 : Reg) (s : State) : Host.Outcome State Fault Refusal :=
  s.virtLoad (.hlvxWu rd rs1) .loadX 4 false rd rs1

/-- HLV.D (41_vm_load_store.md R264). -/
def execHlvD (rd rs1 : Reg) (s : State) : Host.Outcome State Fault Refusal :=
  s.virtLoad (.hlvD rd rs1) .load 8 false rd rs1

/-- HSV.B (41_vm_load_store.md R265). -/
def execHsvB (rs2 rs1 : Reg) (s : State) : Host.Outcome State Fault Refusal :=
  s.virtStore (.hsvB rs2 rs1) 1 rs2 rs1

/-- HSV.H (41_vm_load_store.md R266). -/
def execHsvH (rs2 rs1 : Reg) (s : State) : Host.Outcome State Fault Refusal :=
  s.virtStore (.hsvH rs2 rs1) 2 rs2 rs1

/-- HSV.W (41_vm_load_store.md R267). -/
def execHsvW (rs2 rs1 : Reg) (s : State) : Host.Outcome State Fault Refusal :=
  s.virtStore (.hsvW rs2 rs1) 4 rs2 rs1

/-- HSV.D (41_vm_load_store.md R268). -/
def execHsvD (rs2 rs1 : Reg) (s : State) : Host.Outcome State Fault Refusal :=
  s.virtStore (.hsvD rs2 rs1) 8 rs2 rs1

end Sys2Proof.Machine
end

