-- ==== Sys2Proof/Machine/Fetch.lean ====
section
/-! DEFINITION. Fetching an instruction (20_memory.md R142, R146, R149, R173), words that are no instruction of the table
(30_encoding.md R189, 42_privileged.md R300), what the platform does between steps (60_exceptions.md R327, 92 D17, D31), and
placing a word where the next fetch reads it. -/

namespace Sys2Proof.Machine

open Sys2Proof

/-- The bytes an aligned pc is a multiple of (20_memory.md R149). -/
def ialignBytes : Ialign → Nat
  | .i16 => 2
  | .i32 => 4

/-- What a fetch gives. -/
inductive Fetched where
  | word (w : InstrWord) (s : State)
  | trap (t : Trap) (s : State)
  | stale (addr : Nat)

/-- One 16-bit parcel at a virtual address, or why there is none. -/
inductive Parcel where
  | ok (p : BitVec 16) (s : State)
  | trap (t : Trap) (s : State)
  | stale (addr : Nat)

/-- Fetch one parcel: a fault reports the parcel's address, the faulting portion of the instruction (20_memory.md R149); a
byte stored to since reset is a stale fetch (R173). -/
def State.fetchParcel (s : State) (va : Word) : Parcel :=
  let acc := s.fetchAccess
  match s.locate va 2 acc with
  | .fault f a s' => .trap (accessTrap f acc a 0) s'
  | .ok spas s' =>
    match spas.find? (s'.storedTo.contains ·) with
    | some a => .stale a
    | none => .ok ((valueOfBytes false (s'.memRead spas)).setWidth 16) s'

/-- Fetch at `pc`: the first parcel says whether there is a second (30_encoding.md R180). -/
def State.fetch (s : State) : Fetched :=
  if s.pc.toNat % ialignBytes s.cfg.ialign ≠ 0 then
    .trap (accessTrap .misaligned s.fetchAccess s.pc 0) s
  else
    match s.fetchParcel s.pc with
    | .trap t s' => .trap t s'
    | .stale a => .stale a
    | .ok lo s' =>
      if lo.extractLsb' 0 2 ≠ 0b11 then .word (lo.setWidth 32) s'
      else
        match s'.fetchParcel (fit s'.xlen (s'.pc + 2)) with
        | .trap t s'' => .trap t s''
        | .stale a => .stale a
        | .ok hi s'' => .word (hi ++ lo) s''

/-- A fetched word that is no instruction of the table: out of scope if it is one of the base ISA or of its extensions
(00_scope.md R6), but a floating-point instruction is illegal where FS bars it (42_privileged.md R300); every other word is an
illegal instruction (30_encoding.md R189, 93 U24). Which words are which is PRESUMED from the family (log 26, 27). -/
def State.execRejected (s : State) (r : Reject) (w : InstrWord) : Host.Outcome State Fault Refusal :=
  match r with
  | .reservedSystem => .next (s.raiseBarred excIllegal w)
  | .compressed =>
    if s.cfg.ialign = .i32 ∨ isCompressedWord s.xlen w = false ∨ (isFloatParcel s.xlen w = true ∧ s.floatOff = true) then
      .next (s.raiseBarred excIllegal w)
    else .refused (.outOfScope w)
  | .floatingPoint => if s.floatOff then .next (s.raiseBarred excIllegal w) else .refused (.outOfScope w)
  | .otherOpcode => if isBaseWord s.xlen w then .refused (.outOfScope w) else .next (s.raiseBarred excIllegal w)
  | .tooShort => .refused (.outOfScope w)

/-! ## Between steps -/

/-- The counters after step `n`: each is drawn; `time` never decreases (40_csr_access.md R234, 92 D31). -/
def countersAfter (old : Vector (BitVec 64) 32) (n : Nat) : Vector (BitVec 64) 32 :=
  old.mapIdx fun i c =>
    let drawn := Config.counterAt i n
    if i = 1 ∧ drawn < c then c else drawn

/-- What happens outside the hart after its step: the inputs and the counters are drawn anew and the step index moves on
(60_exceptions.md R327, 92 D17, D31). -/
def State.platformStep (s : State) : State :=
  { s with
    counters := countersAfter s.counters s.tick
    plat := Config.platformAt s.tick
    tick := s.tick + 1 }

/-- An outcome with the platform's part added to its next state. -/
def withPlatform (o : Host.Outcome State Fault Refusal) : Host.Outcome State Fault Refusal :=
  match o with
  | .next s => .next s.platformStep
  | .fault r => .fault r
  | .refused r => .refused r

/-! ## Placing a word where the next fetch reads it -/

/-- The supervisor physical addresses of the four bytes at `pc`; the address itself where the translation fails. -/
def State.fetchAddrs (s : State) : List Nat :=
  match s.locate s.pc 4 s.fetchAccess with
  | .ok spas _ => spas
  | .fault _ _ _ => (List.range 4).map (s.pc.toNat + ·)

/-- The state with a word at `pc`, as a program loaded from outside leaves it: its bytes in memory, not counted as stored by
the hart (log 4). -/
def State.placeWord (s : State) (w : InstrWord) : State :=
  let spas := s.fetchAddrs
  { s with
    mem := Memory.writeBytes s.mem (spas.zip (bytesOfWord w))
    storedTo := s.storedTo.filter fun a => !spas.contains a }

end Sys2Proof.Machine
end

