-- ==== Sys2Proof/Machine/Interrupt.lean ====
section
/-! DEFINITION. Which interrupt, if any, is taken before the next instruction (60_exceptions.md R325 to R337, R342). -/

namespace Sys2Proof.Machine

open Sys2Proof

/-- M-level interrupts: pending, enabled and not delegated. Order MEI, MSI, MTI (60_exceptions.md R336), then SEI, SSI, STI
when `mideleg` keeps them (log 28). -/
def State.machinePending (s : State) (i : Nat) : Bool := bit s.mipBits i && bit s.mieBits i && !bit s.midelegBits i

def machineOrder : List Nat := [11, 3, 7, 9, 1, 5]

/-- Whether M-level interrupts are enabled: below M-mode always, in M-mode by MIE (60_exceptions.md R336, R354). -/
def State.machineGlobal (s : State) : Bool := s.priv != .m || s.mstatusMie

/-- `HSpending` (60_exceptions.md R330). -/
def State.hyperPending (s : State) (i : Nat) : Bool :=
  if i = 1 ∨ i = 5 ∨ i = 9 then bit s.sip i && bit s.sieBits i && bit s.midelegBits i
  else if i = 12 then bit s.hip 12 && bit s.hie 12
  else if i = 2 ∨ i = 6 ∨ i = 10 then bit s.hip i && bit s.hie i && !bit s.hidelegBits i
  else false

/-- SEI, SSI, STI, SGEI, VSEI, VSSI, VSTI (60_exceptions.md R335). -/
def hyperOrder : List Nat := [9, 1, 5, 12, 10, 2, 6]

/-- `HSglobal` (60_exceptions.md R330, 92 D32): never in M-mode. -/
def State.hyperGlobal (s : State) : Bool := s.priv != .m && (s.v || s.priv == .u || s.sie)

/-- `VSpending` (60_exceptions.md R331). -/
def State.guestPending (s : State) (i : Nat) : Bool := bit s.hip i && bit s.hie i && bit s.hidelegBits i

/-- VSEI, VSSI, VSTI (60_exceptions.md R336). -/
def guestOrder : List Nat := [10, 2, 6]

/-- `VSglobal` (60_exceptions.md R331). -/
def State.guestGlobal (s : State) : Bool := s.v && (s.priv == .u || s.vsSie)

/-- The first pending interrupt of an order. -/
def firstPending (global : Bool) (pending : Nat → Bool) (order : List Nat) : Option Nat :=
  if global then order.find? pending else none

/-- The interrupt taken before the next instruction: M-level before HS-level before VS-level (60_exceptions.md R336). -/
def State.interrupt (s : State) : Option (Target × Nat) :=
  match firstPending s.machineGlobal s.machinePending machineOrder with
  | some i => some (.machine, i)
  | none =>
    match firstPending s.hyperGlobal s.hyperPending hyperOrder with
    | some i => some (.hyper, i)
    | none =>
      match firstPending s.guestGlobal s.guestPending guestOrder with
      | some i => some (.guest, i)
      | none => none

end Sys2Proof.Machine
end

