-- ==== Sys2Proof/Machine/Step.lean ====
section
/-! DEFINITION. One step of the machine (60_exceptions.md R333): an interrupt if one may be taken, else the instruction
at `pc`; then the platform's part. -/

namespace Sys2Proof.Machine

open Sys2Proof

/-- The hart's part of a step (60_exceptions.md R333, R337). -/
def hartStep (s : State) : Host.Outcome State Fault Refusal :=
  match s.interrupt with
  | some (target, code) => .next (s.takeInterrupt target code)
  | none =>
    match s.fetch with
    | .trap t s' => .next (s'.raise t)
    | .stale a => .fault (.fetchAfterStore a)
    | .word w s' =>
      match decode w with
      | .ok i => exec i s'
      | .error r => s'.execRejected r w

/-- One step. -/
def step (s : State) : Host.Outcome State Fault Refusal := withPlatform (hartStep s)

/-- The state with a table word placed where the next fetch reads it, bits at and above `nbits` zero. -/
def State.withFetchWord (s : State) (nbits w : Nat) : State := s.placeWord (BitVec.ofNat 32 (w % 2 ^ nbits))

end Sys2Proof.Machine
end

