-- ==== Sys2Proof/Safety.lean ====
section
/-! DEFINITION. What holds of every state of a run, and the words the statements use: the shapes of the virtual-machine
loads and stores, the modes that may run them, and what an instruction leaves alone. -/

namespace Sys2Proof.Machine

open Sys2Proof

/-! ## Invariants -/

/-- M-mode implies V = 0 (10_state.md R22). -/
def State.modeLegal (s : State) : Prop := s.priv = .m → s.v = false

/-- Memory is in its canonical form (log 5). -/
def State.memCanonical (s : State) : Prop := Memory.wf s.mem = true

/-- The pc is IALIGN-aligned, the exception pcs hold aligned addresses and the trap vectors have MODE bit 1 clear
(10_state.md R25, R121, R124, 43_arithmetic_and_control.md R442). -/
def State.controlAligned (s : State) : Prop :=
  s.pc &&& epcLow s.cfg = 0 ∧ s.sup.sepc &&& epcLow s.cfg = 0 ∧ s.vs.vsepc &&& epcLow s.cfg = 0 ∧
    s.mach.mepc &&& epcLow s.cfg = 0 ∧ bit s.sup.stvec 1 = false ∧ bit s.vs.vstvec 1 = false ∧
    bit s.mach.mtvec 1 = false

/-- The implementation's parameters are admissible, and the fields with a legal set hold a member of it (00_scope.md R11,
10_state.md R34, R38, R102 to R104, R128; MPP names a privilege, R21). -/
def State.fieldsLegal (s : State) : Prop :=
  s.cfg.valid = true ∧ s.vgein ≤ s.cfg.geilen ∧ s.hgatpMode ∈ s.cfg.hgatpModes ∧ s.hgatpVmid < 2 ^ s.cfg.vmidlen ∧
    s.hgatpPpn % 4 = 0 ∧ (s.cfg.hsxlen = .x64 → s.vsxl ∈ s.cfg.vsxlLegal) ∧
    satpMode s.vsxlen s.vs.vsatp ∈ vsatpModesAt s.cfg s.vsxlen ∧
    satpMode s.cfg.hsxlen s.sup.satp ∈ vsatpModesAt s.cfg s.cfg.hsxlen ∧ s.mstatusMpp ≠ 2

/-- The HS-level and machine cause registers hold a code of 60_exceptions.md R320 or R325. -/
def State.causesLegal (s : State) : Prop :=
  causeLegal s.cfg.hsxlen s.sup.scause = true ∧ causeLegal s.cfg.hsxlen s.mach.mcause = true

/-- A state a run should be in. -/
def State.sound (s : State) : Prop :=
  s.modeLegal ∧ s.memCanonical ∧ s.controlAligned ∧ s.fieldsLegal ∧ s.causesLegal

/-- `n` steps, none of which stops. -/
def runs : Nat → State → State → Prop
  | 0, s, t => t = s
  | n + 1, s, t => ∃ u, step s = .next u ∧ runs n u t

/-! ## What an instruction leaves alone -/

/-- Nothing but general registers, the pc, memory with its record of stores, and cached translations differs. -/
structure SameControl (s t : State) : Prop where
  cfg : t.cfg = s.cfg
  priv : t.priv = s.priv
  v : t.v = s.v
  hyp : t.hyp = s.hyp
  vs : t.vs = s.vs
  sup : t.sup = s.sup
  mach : t.mach = s.mach
  counters : t.counters = s.counters
  plat : t.plat = s.plat
  tick : t.tick = s.tick

/-- Memory, its record of stores and the cached translations are as they were. -/
structure SameMemory (s t : State) : Prop where
  mem : t.mem = s.mem
  storedTo : t.storedTo = s.storedTo
  tlb : t.tlb = s.tlb

/-- The parts no trap changes: parameters, general registers, counters, memory, inputs. -/
structure SameOutsideTrap (s t : State) : Prop where
  cfg : t.cfg = s.cfg
  regs : t.regs = s.regs
  counters : t.counters = s.counters
  memory : SameMemory s t
  plat : t.plat = s.plat
  tick : t.tick = s.tick

/-! ## Virtual-machine loads and stores (41_vm_load_store.md R250) -/

/-- What distinguishes one load from another. -/
structure LoadShape where
  kind : AccKind
  bytes : Nat
  signed : Bool
  rd : Reg
  rs1 : Reg
  deriving DecidableEq, Repr

/-- What distinguishes one store from another. -/
structure StoreShape where
  bytes : Nat
  rs2 : Reg
  rs1 : Reg
  deriving DecidableEq, Repr

/-- The loads: width, extension, and whether execute permission is asked for (41_vm_load_store.md R250). -/
def loadShape : Instr → Option LoadShape
  | .hlvB rd rs1 => some ⟨.load, 1, true, rd, rs1⟩
  | .hlvBu rd rs1 => some ⟨.load, 1, false, rd, rs1⟩
  | .hlvH rd rs1 => some ⟨.load, 2, true, rd, rs1⟩
  | .hlvHu rd rs1 => some ⟨.load, 2, false, rd, rs1⟩
  | .hlvxHu rd rs1 => some ⟨.loadX, 2, false, rd, rs1⟩
  | .hlvW rd rs1 => some ⟨.load, 4, true, rd, rs1⟩
  | .hlvWu rd rs1 => some ⟨.load, 4, false, rd, rs1⟩
  | .hlvxWu rd rs1 => some ⟨.loadX, 4, false, rd, rs1⟩
  | .hlvD rd rs1 => some ⟨.load, 8, false, rd, rs1⟩
  | .hsvB _ _ | .hsvH _ _ | .hsvW _ _ | .hsvD _ _ => none
  | .csrrw _ _ _ | .csrrs _ _ _ | .csrrc _ _ _ | .csrrwi _ _ _ | .csrrsi _ _ _ | .csrrci _ _ _ => none
  | .ecall | .ebreak | .sret | .mret | .wfi | .sfenceVma _ _ | .hfenceVvma _ _ | .hfenceGvma _ _ => none

/-- The stores: width and operands (41_vm_load_store.md R250). -/
def storeShape : Instr → Option StoreShape
  | .hsvB rs2 rs1 => some ⟨1, rs2, rs1⟩
  | .hsvH rs2 rs1 => some ⟨2, rs2, rs1⟩
  | .hsvW rs2 rs1 => some ⟨4, rs2, rs1⟩
  | .hsvD rs2 rs1 => some ⟨8, rs2, rs1⟩
  | .hlvB _ _ | .hlvBu _ _ | .hlvH _ _ | .hlvHu _ _ | .hlvxHu _ _ => none
  | .hlvW _ _ | .hlvWu _ _ | .hlvxWu _ _ | .hlvD _ _ => none
  | .csrrw _ _ _ | .csrrs _ _ _ | .csrrc _ _ _ | .csrrwi _ _ _ | .csrrsi _ _ _ | .csrrci _ _ _ => none
  | .ecall | .ebreak | .sret | .mret | .wfi | .sfenceVma _ _ | .hfenceVvma _ _ | .hfenceGvma _ _ => none

/-- The mode and the width may run a virtual-machine load or store (41_vm_load_store.md R251). -/
def State.mayRunVm (s : State) (i : Instr) : Prop :=
  s.v = false ∧ (s.priv = .u → s.hu = true) ∧ (i.rv64Only = true → s.xlen = .x64)

/-- Both stages of translation are Bare (41_vm_load_store.md R271). -/
def State.bothStagesBare (s : State) : Prop := satpMode s.vsxlen s.vs.vsatp = 0 ∧ s.hgatpMode = 0

/-- The byte order of a virtual-machine load or store (41_vm_load_store.md R252). -/
def State.vmBigEndian (s : State) : Bool := if s.spvp then s.vsbe else s.vsUbe

/-- The `n` byte addresses from `a`. -/
def addrsFrom (a n : Nat) : List Nat := (List.range n).map (a + ·)

/-! ## CSR addresses by class (30_encoding.md R184, R185) -/

/-- The VS CSRs' own addresses. -/
def vsCsrAddrs : List (Nat × Csr) :=
  [(0x200, .vsstatus), (0x204, .vsie), (0x205, .vstvec), (0x240, .vsscratch), (0x241, .vsepc), (0x242, .vscause),
   (0x243, .vstval), (0x244, .vsip), (0x280, .vsatp)]

/-- The hypervisor CSRs' addresses that exist at every HSXLEN, apart from `hgatp`. -/
def hypCsrAddrs : List (Nat × Csr) :=
  [(0x600, .hstatus), (0x602, .hedeleg), (0x603, .hideleg), (0x604, .hie), (0x605, .htimedelta), (0x606, .hcounteren),
   (0x607, .hgeie), (0x643, .htval), (0x644, .hip), (0x645, .hvip), (0x64A, .htinst), (0xE12, .hgeip)]

/-- The supervisor CSRs with a replica, apart from `satp`: address, register, replica. -/
def supCsrAddrs : List (Nat × Csr × Csr) :=
  [(0x100, .sstatus, .vsstatus), (0x104, .sie, .vsie), (0x105, .stvec, .vstvec), (0x140, .sscratch, .vsscratch),
   (0x141, .sepc, .vsepc), (0x142, .scause, .vscause), (0x143, .stval, .vstval), (0x144, .sip, .vsip)]

/-- The machine CSRs whose addresses the spec gives. -/
def machCsrAddrs : List (Nat × Csr) :=
  [(0x300, .mstatus), (0x301, .misa), (0x302, .medeleg), (0x303, .mideleg), (0x304, .mie), (0x306, .mcounteren),
   (0x344, .mip), (0x34A, .mtinst), (0x34B, .mtval2)]

/-! ## What a CSR access answers -/

/-- The address a CSR instruction names and whether it wants to write it (40_csr_access.md R221 to R226). -/
def csrOperand : Instr → Option (CsrAddr × Bool)
  | .csrrw _ a _ => some (a, true)
  | .csrrs _ a rs1 => some (a, rs1 != 0)
  | .csrrc _ a rs1 => some (a, rs1 != 0)
  | .csrrwi _ a _ => some (a, true)
  | .csrrsi _ a u => some (a, u != 0)
  | .csrrci _ a u => some (a, u != 0)
  | .ecall | .ebreak | .sret | .mret | .wfi | .sfenceVma _ _ | .hfenceVvma _ _ | .hfenceGvma _ _ => none
  | .hlvB _ _ | .hlvBu _ _ | .hlvH _ _ | .hlvHu _ _ | .hlvxHu _ _ | .hlvW _ _ | .hlvWu _ _ | .hlvxWu _ _ => none
  | .hlvD _ _ | .hsvB _ _ | .hsvH _ _ | .hsvW _ _ | .hsvD _ _ => none

/-- Every CSR instruction on an address, wanting a write or not, raises this exception. -/
def State.csrRaises (s : State) (a : CsrAddr) (w : Bool) (code : Nat) : Prop :=
  ∀ i : Instr, csrOperand i = some (a, w) → exec i s = .next (s.raiseBarred code (encode i))

/-- The register a CSR instruction puts the old value into (40_csr_access.md R221 to R226). -/
def csrDest : Instr → Reg
  | .csrrw rd _ _ | .csrrs rd _ _ | .csrrc rd _ _ | .csrrwi rd _ _ | .csrrsi rd _ _ | .csrrci rd _ _ => rd
  | .ecall | .ebreak | .sret | .mret | .wfi | .sfenceVma _ _ | .hfenceVvma _ _ | .hfenceGvma _ _ => 0
  | .hlvB _ _ | .hlvBu _ _ | .hlvH _ _ | .hlvHu _ _ | .hlvxHu _ _ | .hlvW _ _ | .hlvWu _ _ | .hlvxWu _ _ => 0
  | .hlvD _ _ | .hsvB _ _ | .hsvH _ _ | .hsvW _ _ | .hsvD _ _ => 0

/-- The value a CSR instruction writes, made from the old one (40_csr_access.md R221 to R226). -/
def State.csrNewValue (s : State) (old : Word) : Instr → Word
  | .csrrw _ _ rs1 => s.x rs1
  | .csrrs _ _ rs1 => old ||| s.x rs1
  | .csrrc _ _ rs1 => old &&& ~~~(s.x rs1)
  | .csrrwi _ _ u => uimmValue u
  | .csrrsi _ _ u => old ||| uimmValue u
  | .csrrci _ _ u => old &&& ~~~(uimmValue u)
  | .ecall | .ebreak | .sret | .mret | .wfi | .sfenceVma _ _ | .hfenceVvma _ _ | .hfenceGvma _ _ => old
  | .hlvB _ _ | .hlvBu _ _ | .hlvH _ _ | .hlvHu _ _ | .hlvxHu _ _ | .hlvW _ _ | .hlvWu _ _ | .hlvxWu _ _ => old
  | .hlvD _ _ | .hsvB _ _ | .hsvH _ _ | .hsvW _ _ | .hsvD _ _ => old

/-- Every CSR instruction on an address, wanting a write or not, reaches this register: its destination gets the old value,
and where a write is wanted the register is written with the instruction's new value. -/
def State.csrReaches (s : State) (a : CsrAddr) (w : Bool) (c : Csr) : Prop :=
  ∀ i : Instr, csrOperand i = some (a, w) → exec i s =
    match if w then s.writeCsr c (s.csrNewValue (s.readCsr c) i) else .ok s with
    | .ok u => .next ((u.setX (csrDest i) (fit s.xlen (s.readCsr c))).advance)
    | .error r => .refused r

/-- A CSR write that is refused: VGEIN above GEILEN, `vscause` with a code that is not listed, `misa` with bit 7 clear
(00_scope.md R12, R3, 92 D28, D9; at GEILEN = 0 VGEIN is hardwired, log 12; the listed codes, log 11). -/
def State.refusesWrite (s : State) (c : Csr) (v : Word) : Prop :=
  (c = .hstatus ∧ s.cfg.geilen ≠ 0 ∧ s.cfg.geilen < field v 12 6) ∨ (c = .vscause ∧ causeLegal s.vsxlen v = false) ∨
    (c = .misa ∧ bit v 7 = false)

/-- What accesses to an address do: raise an exception or reach a register. -/
def State.csrAnswers (s : State) (a : CsrAddr) (w : Bool) (r : Except Nat Csr) : Prop :=
  match r with
  | .error code => s.csrRaises a w code
  | .ok c => s.csrReaches a w c

/-! ## Answers of the translation hardware, without the state they leave -/

/-- The value or the fault of an answer. -/
def Answer.outcome {α : Type} (a : Answer α) : Except AccFault α :=
  match a with
  | .ok x _ => .ok x
  | .fault f _ => .error f

end Sys2Proof.Machine
end

