-- ==== Sys2Proof/Certificates/Slice0/Obligations.lean ====
section
/-! DEFINITION. The statements for the provers: encodings, the step, invariants, traps and returns, the privileged group,
virtual-machine loads and stores, CSR access, interrupts, translation. -/

open Sys2Proof Sys2Proof.Machine

/-! ## Encodings -/

/-- 30_encoding.md R181, R182, R186 to R188: no bit of an encoding is dropped. -/
def Obligations.DecodeInvertsEncode : Prop :=
  ∀ i : Instr, decode (encode i) = .ok i

/-- 30_encoding.md R188, "Decoding: (word & mask) == match": a decoded word matches its instruction's row and is its
encoding; a word that matches a row decodes to an instruction of that row. -/
def Obligations.DecodingIsMaskAndMatch : Prop :=
  (∀ (w : InstrWord) (i : Instr), decode w = .ok i → w &&& i.rowMask = i.rowMatch ∧ encode i = w) ∧
  (∀ (w : InstrWord) (i : Instr), w &&& i.rowMask = i.rowMatch → ∃ j, decode w = .ok j ∧ j.rowMatch = i.rowMatch)

/-- Words written out from the tables of 30_encoding.md R186 to R188, one of each group and format. -/
def Obligations.SampleWordsDecodeAsTabled : Prop :=
  decode 0x10002573 = .ok (.csrrs 10 0x100 0) ∧ decode 0x64539073 = .ok (.csrrw 0 0x645 7) ∧
  decode 0x64526073 = .ok (.csrrsi 0 0x645 4) ∧ decode 0x10200073 = .ok .sret ∧ decode 0x30200073 = .ok .mret ∧
  decode 0x62628073 = .ok (.hfenceGvma 5 6) ∧ decode 0x6005C573 = .ok (.hlvB 10 11) ∧
  decode 0x6AC5C073 = .ok (.hsvW 12 11)

/-- 30_encoding.md R189: a word of the SYSTEM opcode that matches no row raises the illegal instruction exception. -/
def Obligations.UnmatchedSystemWordIsIllegal : Prop :=
  ∀ (s s' : State) (w : InstrWord), s.interrupt = none → s.fetch = .word w s' → w.extractLsb' 0 7 = 0b1110011 →
    (∀ i : Instr, w &&& i.rowMask ≠ i.rowMatch) →
    step s = .next (s'.raiseBarred 2 w).platformStep

/-! ## The step -/

/-- A step with no interrupt to take runs the instruction the fetched word decodes to, then the platform's part. -/
def Obligations.StepRunsTheDecodedInstruction : Prop :=
  ∀ (s s' : State) (w : InstrWord) (i : Instr), s.interrupt = none → s.fetch = .word w s' → decode w = .ok i →
    step s = withPlatform (exec i s')

/-- The same from the bytes in memory, in M-mode, where no translation applies (20_memory.md R146, R150): the four bytes
at an aligned pc, in memory and not stored to, are the instruction's. -/
def Obligations.MachineModeStepRunsTheBytesAtPc : Prop :=
  ∀ (s : State) (i : Instr), s.interrupt = none → s.priv = .m → s.v = false →
    s.pc.toNat % ialignBytes s.cfg.ialign = 0 → s.pc.toNat + 4 ≤ 2 ^ s.cfg.hsxlen.bits →
    (∀ a ∈ addrsFrom s.pc.toNat 4, isMemory s.cfg a = true ∧ a ∉ s.storedTo) →
    s.memRead (addrsFrom s.pc.toNat 4) = bytesOfWord (encode i) →
    step s = withPlatform (exec i s)

/-- 60_exceptions.md R337: an interrupt that may be taken is taken before the next instruction, whatever that is; R350: no
general register and no memory changes. That it is taken at the first opportunity is the model's choice (R333, log 29). -/
def Obligations.InterruptIsTakenBeforeTheInstruction : Prop :=
  ∀ (s : State) (g : Target) (c : Nat), s.interrupt = some (g, c) →
    step s = .next (s.takeInterrupt g c).platformStep ∧ (s.takeInterrupt g c).regs = s.regs ∧
      (s.takeInterrupt g c).mem = s.mem

/-- No step writes the parameters, the step index counts steps, and `time` never decreases (40_csr_access.md R234; that each
counter is drawn anew after every step is the model's choice, log 7). -/
def Obligations.StepKeepsParametersAndTimeRises : Prop :=
  ∀ s t : State, step s = .next t →
    t.cfg = s.cfg ∧ t.tick = s.tick + 1 ∧ s.counters[1].toNat ≤ t.counters[1].toNat

/-- The instructions of the table never fault; those that are no CSR instruction always answer a next state; and one is
refused exactly when it is a CSR instruction whose permitted write puts VGEIN above GEILEN into `hstatus`, an unlisted cause
into `vscause`, or a value with bit 7 clear into `misa` (00_scope.md R12, R3, 92 D28, D9; log 11, 12, 13). -/
def Obligations.TableInstructionsStopOnlyOnRefusedCsrWrites : Prop :=
  ∀ (i : Instr) (s : State),
    (csrOperand i = none → ∃ t, exec i s = .next t) ∧ (∀ f, exec i s ≠ .fault f) ∧
    ((∃ r, exec i s = .refused r) ↔
      ∃ a c, csrOperand i = some (a, true) ∧ s.resolveCsr a true = .ok c ∧
        s.refusesWrite c (s.csrNewValue (s.readCsr c) i))

/-- 20_memory.md R173, 92 D36: in M-mode a fetch of a parcel of which a byte was stored to is a fault. -/
def Obligations.FetchAfterStoreFaults : Prop :=
  ∀ s : State, s.interrupt = none → s.priv = .m → s.v = false → s.pc.toNat % ialignBytes s.cfg.ialign = 0 →
    (∀ a ∈ addrsFrom s.pc.toNat 2, isMemory s.cfg a = true) →
    (∃ a ∈ addrsFrom s.pc.toNat 2, a ∈ s.storedTo) →
    ∃ a, step s = .fault (.fetchAfterStore a) ∧ a ∈ s.storedTo

/-! ## Invariants -/

/-- 10_state.md R22: M-mode implies V = 0. -/
def Obligations.EveryStepKeepsMachineModeOutOfTheGuest : Prop :=
  ∀ s t : State, s.modeLegal → step s = .next t → t.modeLegal

/-- Every step keeps memory in its canonical form (20_memory.md R140, log 5). -/
def Obligations.EveryStepKeepsMemoryCanonical : Prop :=
  ∀ s t : State, s.memCanonical → step s = .next t → t.memCanonical

/-- Every step keeps the pc and the exception pcs aligned and MODE bit 1 of the trap vectors clear (10_state.md R121,
R124, 43_arithmetic_and_control.md R441, R442; that `mepc` and `mtvec` have the shapes of `vsepc` and `vstvec` is PRESUMED,
log 10). -/
def Obligations.EveryStepKeepsControlAddressesAligned : Prop :=
  ∀ s t : State, s.controlAligned → step s = .next t → t.controlAligned

/-- Every step keeps VGEIN at most GEILEN, `hgatp` legal, VSXL in its legal set and MODE of `vsatp` and `satp` supported, also
where a write of VSXL changes the width of `vsatp` (00_scope.md R11, 10_state.md R34, R38, R102 to R104, R128; that `satp` has
the modes of `vsatp` is log 15, what MPP can hold log 34). -/
def Obligations.EveryStepKeepsFieldsLegal : Prop :=
  ∀ s t : State, s.fieldsLegal → step s = .next t → t.fieldsLegal

/-- Every step keeps `scause` and `mcause` at a listed code (60_exceptions.md R320, R325), but a step that runs a CSR
instruction writing one of them: what a write of an unlisted code leaves is the model's free value (log 11). -/
def Obligations.EveryStepKeepsCauseRegistersLegal : Prop :=
  ∀ s t : State, s.causesLegal → step s = .next t →
    t.causesLegal ∨ (s.interrupt = none ∧ ∃ w s' i a, s.fetch = .word w s' ∧ decode w = .ok i ∧
      csrOperand i = some (a, true) ∧ (a = 0x142 ∧ s.v = false ∧ s.priv ≠ .u ∨ a = 0x342 ∧ s.priv = .m))

/-- The reset state of every admissible implementation has the five properties that steps keep (the values are the model's,
log 2). -/
def Obligations.ResetStateMeetsTheInvariants : Prop :=
  ∀ c : Config, c.valid = true → (State.resetOf c).sound

/-- 70_reset_and_hazards.md R402: M-mode, V = 0 (an inference the rule marks as its own), pc at RESET_PC (its decision D18),
interrupts masked. -/
def Obligations.ResetIsMachineModeWithInterruptsMasked : Prop :=
  ∀ c : Config, (State.resetOf c).priv = .m ∧ (State.resetOf c).v = false ∧ (State.resetOf c).pc = c.resetPc ∧
    (State.resetOf c).mstatusMie = false

/-- 42_privileged.md R284, which the spec derives from R281 and R282: only SRET at V = 0 with SPV = 1 or MRET with MPV = 1 sets V, and only a trap clears it. -/
def Obligations.OnlyReturnsEnterTheGuestAndOnlyTrapsLeaveIt : Prop :=
  (∀ s t : State, step s = .next t → s.v = false → t.v = true →
    s.interrupt = none ∧ ∃ w s', s.fetch = .word w s' ∧
      ((decode w = .ok .sret ∧ s.spv = true) ∨ (decode w = .ok .mret ∧ s.mstatusMpv = true ∧ s.priv = .m))) ∧
  (∀ s t : State, step s = .next t → s.v = true → t.v = false → s.priv ≠ .m →
    (t.priv = .s ∧ t.spv = true) ∨ (t.priv = .m ∧ t.mstatusMpv = true)) ∧
  (∀ s : State, s.v = true → s.sretBar = none → ∃ t, exec .sret s = .next t ∧ t.v = true)

/-! ## Taking a trap -/

/-- 60_exceptions.md R352: what a trap into HS-mode writes, and that nothing else changes. -/
def Obligations.TrapIntoHsModeWritesItsRegisters : Prop :=
  ∀ (s : State) (t : Trap) (epc : Word),
    let u := s.enter .hyper t epc
    u.sup = { s.sup with
      sepc := fit s.cfg.hsxlen epc
      scause := (if t.isInt then 1#64 <<< (s.cfg.hsxlen.bits - 1) else 0) ||| BitVec.ofNat 64 t.code
      stval := fit s.cfg.hsxlen t.tval } ∧
    u.spv = s.v ∧ u.spvp = (if s.v then s.priv == .s else s.spvp) ∧ u.gva = t.tvalIsGva ∧
    (∀ i, i ≠ 6 → i ≠ 7 → i ≠ 8 → bit u.hyp.hstatus i = bit s.hyp.hstatus i) ∧
    u.hyp = { s.hyp with hstatus := u.hyp.hstatus, htval := s.htvalOfTrap t, htinst := s.htinstOfTrap t } ∧
    u.spp = (s.priv == .s) ∧ u.spie = s.sie ∧ u.sie = false ∧
    (∀ i, i ≠ 1 → i ≠ 5 → i ≠ 8 → bit u.mach.mstatus i = bit s.mach.mstatus i) ∧
    u.mach = { s.mach with mstatus := u.mach.mstatus } ∧ u.vs = s.vs ∧ u.v = false ∧ u.priv = .s ∧
    u.pc = trapVector s.cfg.hsxlen s.sup.stvec t.isInt t.code ∧ SameOutsideTrap s u

/-- 60_exceptions.md R351: what a trap into VS-mode writes, and that the HS-level registers are not written. -/
def Obligations.TrapIntoVsModeWritesItsRegisters : Prop :=
  ∀ (s : State) (t : Trap) (epc : Word), s.v = true →
    (t.isInt = true → t.code = 10 ∨ t.code = 6 ∨ t.code = 2) →
    let u := s.enter .guest t epc
    let c := if t.isInt then t.code - 1 else t.code
    u.vs = { s.vs with
      vsepc := fit s.vsxlen epc
      vscause := (if t.isInt then 1#64 <<< (s.vsxlen.bits - 1) else 0) ||| BitVec.ofNat 64 c
      vstval := fit s.vsxlen t.tval
      vsstatus := u.vs.vsstatus } ∧
    u.vsSpp = (s.priv == .s) ∧ u.vsSpie = s.vsSie ∧ u.vsSie = false ∧
    (∀ i, i ≠ 1 → i ≠ 5 → i ≠ 8 → bit u.vs.vsstatus i = bit s.vs.vsstatus i) ∧
    u.priv = .s ∧ u.v = true ∧ u.pc = trapVector s.vsxlen s.vs.vstvec t.isInt c ∧
    u.hyp = s.hyp ∧ u.sup = s.sup ∧ u.mach = s.mach ∧ SameOutsideTrap s u

/-- 60_exceptions.md R354 (general knowledge, decision D24): what a trap into M-mode writes, and that no supervisor or hypervisor
register is written. -/
def Obligations.TrapIntoMachineModeWritesItsRegisters : Prop :=
  ∀ (s : State) (t : Trap) (epc : Word),
    let u := s.enter .machine t epc
    u.mach = { s.mach with
      mepc := fit s.cfg.hsxlen epc
      mcause := (if t.isInt then 1#64 <<< (s.cfg.hsxlen.bits - 1) else 0) ||| BitVec.ofNat 64 t.code
      mtval := fit s.cfg.hsxlen t.tval
      mtval2 := s.htvalOfTrap t
      mtinst := s.htinstOfTrap t
      mstatus := u.mach.mstatus } ∧
    u.mstatusMpv = s.v ∧ u.mstatusGva = t.tvalIsGva ∧ u.mstatusMpp = s.priv.code ∧
    bit u.mach.mstatus 7 = s.mstatusMie ∧ u.mstatusMie = false ∧
    (∀ i, i ≠ 3 → i ≠ 7 → i ≠ 11 → i ≠ 12 → i ≠ 38 → i ≠ 39 → bit u.mach.mstatus i = bit s.mach.mstatus i) ∧
    u.v = false ∧ u.priv = .m ∧ u.pc = trapVector s.cfg.hsxlen s.mach.mtvec t.isInt t.code ∧
    u.hyp = s.hyp ∧ u.vs = s.vs ∧ u.sup = s.sup ∧ SameOutsideTrap s u

/-- 60_exceptions.md R357, 43_arithmetic_and_control.md R441: direct and vectored targets, always 4-byte aligned. -/
def Obligations.TrapVectorIsBaseOrVectoredAndAligned : Prop :=
  ∀ (x : Xlen) (tvec : Word) (isInt : Bool) (code : Nat),
    (trapVector x tvec isInt code).toNat % 4 = 0 ∧
    (trapVector x tvec isInt code).toNat =
      (tvec.toNat / 4 * 4 + (if tvec.toNat % 4 = 1 ∧ isInt = true then 4 * code else 0)) % 2 ^ x.bits

/-- 60_exceptions.md R341: an exception goes to M-mode if raised there or not delegated by `medeleg`, else to VS-mode if V = 1
and `hedeleg` has its bit, else to HS-mode. 20_memory.md R163, R344: a guest-page fault, a virtual instruction exception and
environment calls 9 to 11 never go to VS-mode, and no exception goes there from V = 0. (R163 and R344 are inferences of the spec
from R341 and Table 5.2.) -/
def Obligations.NeverDelegatedExceptionsStayOutOfTheGuest : Prop :=
  (∀ (s : State) (c : Nat), c ∈ [9, 10, 11, 20, 21, 22, 23] → s.exceptionTarget c ≠ .guest) ∧
  (∀ (s : State) (c : Nat), s.v = false → s.exceptionTarget c ≠ .guest) ∧
  (∀ (s : State) (c : Nat), s.priv = .m → s.exceptionTarget c = .machine) ∧
  (∀ (s : State) (c : Nat), bit (s.readCsr .medeleg) c = false → s.exceptionTarget c = .machine) ∧
  (∀ (s : State) (c : Nat), s.v = true → s.priv ≠ .m → bit (s.readCsr .medeleg) c = true →
    bit (s.readCsr .hedeleg) c = true → s.exceptionTarget c = .guest) ∧
  (∀ (s : State) (c : Nat), s.priv ≠ .m → bit (s.readCsr .medeleg) c = true →
    s.v = false ∨ bit (s.readCsr .hedeleg) c = false → s.exceptionTarget c = .hyper)

/-- 60_exceptions.md R355: on a guest-page fault into HS-mode `htval` is 0 or the address shifted right by 2, within the
legal set; on every other trap it is 0. R356, 10_state.md R96: `htinst` is 0 or a value of its legal set, 0 on an interrupt, and
an implicit access with a nonzero `htval` has the pseudo-instruction. Nothing is said of which
(decisions D14, D15, general knowledge G35, log 30). -/
def Obligations.HtvalHoldsZeroOrTheShiftedGuestAddress : Prop :=
  ∀ (s : State) (t : Trap) (epc : Word),
    let h := (s.enter .hyper t epc).hyp.htval
    (∀ g, t.guest = some g → t.isInt = false → t.code ∈ [20, 21, 23] →
      h = 0 ∨ (h = fit s.cfg.hsxlen (BitVec.ofNat 64 (g.gpa / 4)) ∧ Config.htvalHolds h = true)) ∧
    (t.isInt = true ∨ t.code ∉ [20, 21, 23] ∨ t.guest = none → h = 0) ∧
    (s.cfg.htinstNonzero = false ∨ t.isInt = true → (s.enter .hyper t epc).hyp.htinst = 0) ∧
    ((s.enter .hyper t epc).hyp.htinst = 0 ∨ Config.htinstHolds (s.enter .hyper t epc).hyp.htinst = true) ∧
    (∀ g, t.guest = some g → g.implicit = true → h = 0 ∨ (s.enter .hyper t epc).hyp.htinst = pseudoInstr g)

/-! ## ECALL, EBREAK, returns, WFI -/

/-- 42_privileged.md R298: the code of an environment call in each mode, at the ECALL's own pc, with trap value 0. R299,
60_exceptions.md R353: EBREAK raises code 3 in every mode at its own pc; the trap value is the pc or 0, and GVA tells a guest
virtual address. -/
def Obligations.EcallAndEbreakRaiseTheirCodes : Prop :=
  (∀ (s : State) (c : Nat),
      (s.priv = .u ∧ c = 8) ∨ (s.priv = .s ∧ s.v = false ∧ c = 9) ∨ (s.priv = .s ∧ s.v = true ∧ c = 10) ∨
        (s.priv = .m ∧ c = 11) →
      exec .ecall s =
        .next (s.enter (s.exceptionTarget c) { isInt := false, code := c, tval := 0, tvalIsGva := false } s.pc)) ∧
  (∀ s : State, ∃ w : Bool,
      exec .ebreak s =
        .next (s.enter (s.exceptionTarget 3)
          { isInt := false, code := 3, tval := if w then s.pc else 0, tvalIsGva := w && s.v } s.pc))

/-- 42_privileged.md R281: SRET at V = 0. That SPV is left 0 is the spec's decision D27; that HS-mode leaves MPRV as it is, log 33. -/
def Obligations.SretAtV0RestoresModeFromSpvAndSpp : Prop :=
  ∀ s : State, s.v = false → s.priv ≠ .u → (s.priv = .s → s.mstatusTsr = false) →
    ∃ t, exec .sret s = .next t ∧
      t.v = s.spv ∧ t.priv = (if s.spp then .s else .u) ∧
      t.sie = s.spie ∧ t.spie = true ∧ t.spp = false ∧ t.spv = false ∧
      (t.xlen = s.cfg.hsxlen → t.pc = fit s.cfg.hsxlen s.sup.sepc) ∧
      (s.priv = .m → t.mstatusMprv = false) ∧
      (∀ i, i ≠ 1 → i ≠ 5 → i ≠ 8 → (i = 17 → s.priv ≠ .m) → bit t.mach.mstatus i = bit s.mach.mstatus i) ∧
      (∀ i, i ≠ 7 → bit t.hyp.hstatus i = bit s.hyp.hstatus i) ∧
      t.mach = { s.mach with mstatus := t.mach.mstatus } ∧ t.hyp = { s.hyp with hstatus := t.hyp.hstatus } ∧
      t.vs = s.vs ∧ t.sup = s.sup ∧ SameOutsideTrap s t

/-- 42_privileged.md R282: SRET in VS-mode works on the VS CSRs and leaves V = 1; `mstatus.TSR` does not apply. -/
def Obligations.SretInVsModeReturnsWithinTheGuest : Prop :=
  ∀ s : State, s.v = true → s.priv = .s →
    (s.vtsr = true → exec .sret s = .next (s.raiseBarred 22 (encode .sret))) ∧
    (s.vtsr = false → ∃ t, exec .sret s = .next t ∧
      t.v = true ∧ t.priv = (if s.vsSpp then .s else .u) ∧
      t.vsSie = s.vsSpie ∧ t.vsSpie = true ∧ t.vsSpp = false ∧
      (t.xlen = s.vsxlen → t.pc = fit s.vsxlen s.vs.vsepc) ∧
      (∀ i, i ≠ 1 → i ≠ 5 → i ≠ 8 → bit t.vs.vsstatus i = bit s.vs.vsstatus i) ∧
      t.vs = { s.vs with vsstatus := t.vs.vsstatus } ∧ t.hyp = s.hyp ∧ t.sup = s.sup ∧ t.mach = s.mach ∧
      SameOutsideTrap s t)

/-- 60_exceptions.md R358: MRET in M-mode. That MRET leaves MPRV as it is follows the rule's list (log 33). -/
def Obligations.MretRestoresModeFromMpvAndMpp : Prop :=
  ∀ s : State, s.priv = .m → s.mstatusMpp ≠ 2 →
    ∃ t, exec .mret s = .next t ∧
      t.priv.code = s.mstatusMpp ∧ t.v = (s.mstatusMpp != 3 && s.mstatusMpv) ∧
      t.mstatusMie = bit s.mach.mstatus 7 ∧ bit t.mach.mstatus 7 = true ∧ t.mstatusMpp = 0 ∧ t.mstatusMpv = false ∧
      (t.xlen = s.cfg.hsxlen → t.pc = fit s.cfg.hsxlen s.mach.mepc) ∧
      (∀ i, i ≠ 3 → i ≠ 7 → i ≠ 11 → i ≠ 12 → i ≠ 39 → bit t.mach.mstatus i = bit s.mach.mstatus i) ∧
      t.mach = { s.mach with mstatus := t.mach.mstatus } ∧ t.hyp = s.hyp ∧ t.vs = s.vs ∧ t.sup = s.sup ∧
      SameOutsideTrap s t

/-- 42_privileged.md R306: which exception bars SRET, MRET and the fences in which mode. -/
def Obligations.ReturnsAndFencesAreBarredAsTabled : Prop :=
  (∀ s : State, s.v = false → s.priv = .u → ∀ rs1 rs2 : Reg,
    ∀ i ∈ [Instr.sret, .mret, .sfenceVma rs1 rs2, .hfenceVvma rs1 rs2, .hfenceGvma rs1 rs2],
      exec i s = .next (s.raiseBarred 2 (encode i))) ∧
  (∀ s : State, s.v = true → s.priv = .u → ∀ rs1 rs2 : Reg,
    ∀ i ∈ [Instr.sret, .sfenceVma rs1 rs2], exec i s = .next (s.raiseBarred 22 (encode i))) ∧
  (∀ s : State, s.v = true → ∀ rs1 rs2 : Reg,
    ∀ i ∈ [Instr.hfenceVvma rs1 rs2, .hfenceGvma rs1 rs2], exec i s = .next (s.raiseBarred 22 (encode i))) ∧
  (∀ s : State, s.priv ≠ .m → exec .mret s = .next (s.raiseBarred 2 (encode .mret))) ∧
  (∀ s : State, s.v = true → s.priv = .s → s.vtsr = true → exec .sret s = .next (s.raiseBarred 22 (encode .sret))) ∧
  (∀ s : State, s.v = false → s.priv = .s → s.mstatusTsr = true →
    exec .sret s = .next (s.raiseBarred 2 (encode .sret))) ∧
  (∀ s : State, s.v = true → s.priv = .s → s.vtvm = true → ∀ rs1 rs2 : Reg,
    exec (.sfenceVma rs1 rs2) s = .next (s.raiseBarred 22 (encode (.sfenceVma rs1 rs2)))) ∧
  (∀ s : State, s.v = false → s.priv = .s → s.mstatusTvm = true → ∀ rs1 rs2 : Reg,
    ∀ i ∈ [Instr.sfenceVma rs1 rs2, .hfenceGvma rs1 rs2], exec i s = .next (s.raiseBarred 2 (encode i)))

/-- 42_privileged.md R286 to R288: WFI only moves on, or, where a limit applies and is exceeded, raises the exception of
its mode; in M-mode, in HS-mode and in VS-mode with VTW = 0, all with TW = 0 below M-mode, it always completes. -/
def Obligations.WfiCompletesOrTrapsAsItsModeAllows : Prop :=
  (∀ s : State, s.priv = .m ∨ (s.mstatusTw = false ∧ s.priv = .s ∧ (s.v = true → s.vtw = false)) →
    exec .wfi s = .next s.advance) ∧
  (∀ s : State, s.priv ≠ .m → s.mstatusTw = true →
    exec .wfi s = .next s.advance ∨ exec .wfi s = .next (s.raiseBarred 2 (encode .wfi))) ∧
  (∀ s : State, s.v = true → s.mstatusTw = false → s.priv = .u ∨ (s.priv = .s ∧ s.vtw = true) →
    exec .wfi s = .next s.advance ∨ exec .wfi s = .next (s.raiseBarred 22 (encode .wfi))) ∧
  (∀ s : State, s.v = false → s.mstatusTw = false → s.priv = .u →
    exec .wfi s = .next s.advance ∨ exec .wfi s = .next (s.raiseBarred 2 (encode .wfi)))

/-! ## Fences -/

/-- 42_privileged.md R290, R294, R296: where a fence is not barred it completes and drops exactly the cached copies in its
scope. SFENCE.VMA: at V = 0 those of the single stage, in VS-mode those of the VS-stage of the current VMID; HFENCE.VVMA: as
SFENCE.VMA in VS-mode; HFENCE.GVMA: the copies its operands name by VMID and guest physical page, of the G-stage those for the
page, of the VS-stage those read from it. That cached copies are kept in State, and that VS-stage ones belong to the page they
were read from, is the model's choice (log 18, 40), and so is that every bit of an ASID operand is compared and the bits of a VMID
operand above VMIDLEN are ignored (log 23); HFENCE.VVMA is presumed (log 42). -/
def Obligations.FencesDropTheCachedCopiesInTheirScopes : Prop :=
  (∀ (s : State) (rs1 rs2 : Reg), s.priv ≠ .u → (s.v = true → s.vtvm = false) →
      (s.v = false → s.priv = .s → s.mstatusTvm = false) →
      ∃ t, exec (.sfenceVma rs1 rs2) s = .next t ∧ SameControl s t ∧ t.regs = s.regs ∧ t.mem = s.mem ∧
        t.storedTo = s.storedTo ∧ t.pc = fit s.xlen (s.pc + 4) ∧
        (∀ e, e ∈ t.tlb ↔ e ∈ s.tlb ∧
          ¬ ((if s.v then e.key.stage = .vsStage ∧ e.key.vmid = s.hgatpVmid else e.key.stage = .single) ∧
            (rs1 ≠ 0 → e.key.page = (fit (if s.v then s.vsxlen else s.cfg.hsxlen) (s.x rs1)).toNat / 4096) ∧
            (rs2 ≠ 0 → e.key.asid =
              (s.x rs2).toNat % 2 ^ (if (if s.v then s.vsxlen else s.cfg.hsxlen) = .x32 then 9 else 16))))) ∧
  (∀ (s : State) (rs1 rs2 : Reg), s.v = false → s.priv ≠ .u →
    ∃ t, exec (.hfenceVvma rs1 rs2) s = .next t ∧ SameControl s t ∧ t.regs = s.regs ∧ t.mem = s.mem ∧
      t.storedTo = s.storedTo ∧ t.pc = fit s.xlen (s.pc + 4) ∧
      (∀ e, e ∈ t.tlb ↔ e ∈ s.tlb ∧
        ¬ (e.key.stage = .vsStage ∧ e.key.vmid = s.hgatpVmid ∧
          (rs1 ≠ 0 → e.key.page = (fit s.vsxlen (s.x rs1)).toNat / 4096) ∧
          (rs2 ≠ 0 → e.key.asid = (s.x rs2).toNat % 2 ^ (if s.vsxlen = .x32 then 9 else 16))))) ∧
  (∀ (s : State) (rs1 rs2 : Reg), s.v = false → s.priv ≠ .u → (s.priv = .s → s.mstatusTvm = false) →
    ∃ t, exec (.hfenceGvma rs1 rs2) s = .next t ∧ SameControl s t ∧ t.regs = s.regs ∧ t.mem = s.mem ∧
      t.storedTo = s.storedTo ∧ t.pc = fit s.xlen (s.pc + 4) ∧
      (∀ e, e ∈ t.tlb ↔ e ∈ s.tlb ∧
        ¬ ((rs2 ≠ 0 → e.key.vmid = (s.x rs2).toNat % 2 ^ s.cfg.vmidlen) ∧
          ((e.key.stage = .vsStage ∧ (rs1 ≠ 0 → e.table = (s.x rs1).toNat * 4 / 4096)) ∨
            (e.key.stage = .gStage ∧ (rs1 ≠ 0 → e.key.page = (s.x rs1).toNat * 4 / 4096))))))

/-! ## Virtual-machine loads and stores -/

/-- 41_vm_load_store.md R271 (an inference of the spec), R252, R256 to R264: with both stages Bare an aligned load in memory completes and puts the
extended value of the bytes at its address into rd; nothing else but the pc changes. -/
def Obligations.VmLoadUnderBareStagesReadsMemory : Prop :=
  ∀ (s : State) (i : Instr) (h : LoadShape), loadShape i = some h → s.mayRunVm i → s.bothStagesBare →
    (s.x h.rs1).toNat % h.bytes = 0 → fit s.vsxlen (s.x h.rs1) = s.x h.rs1 →
    (∀ a ∈ addrsFrom (s.x h.rs1).toNat h.bytes, isMemory s.cfg a = true) →
    exec i s = .next
      ((s.setX h.rd (extendLoaded h.signed h.bytes
        (valueOfBytes s.vmBigEndian (s.memRead (addrsFrom (s.x h.rs1).toNat h.bytes))))).advance)

/-- 41_vm_load_store.md R271 (an inference of the spec), R252, R265 to R268: with both stages Bare an aligned store in memory completes, puts the low
bytes of rs2 at its address in the access's byte order and changes no other byte, no register and no CSR. -/
def Obligations.VmStoreUnderBareStagesWritesMemory : Prop :=
  ∀ (s : State) (i : Instr) (h : StoreShape), storeShape i = some h → s.mayRunVm i → s.bothStagesBare → s.memCanonical →
    (s.x h.rs1).toNat % h.bytes = 0 → fit s.vsxlen (s.x h.rs1) = s.x h.rs1 →
    (∀ a ∈ addrsFrom (s.x h.rs1).toNat h.bytes, isMemory s.cfg a = true) →
    ∃ t, exec i s = .next t ∧ SameControl s t ∧ t.regs = s.regs ∧ t.tlb = s.tlb ∧ t.pc = fit s.xlen (s.pc + 4) ∧
      (∀ k, k < h.bytes → Memory.readByte t.mem ((s.x h.rs1).toNat + k) =
        (s.x h.rs2).extractLsb' (8 * (if s.vmBigEndian then h.bytes - 1 - k else k)) 8) ∧
      (∀ a, a ∉ addrsFrom (s.x h.rs1).toNat h.bytes → Memory.readByte t.mem a = Memory.readByte s.mem a) ∧
      (∀ a, a ∈ t.storedTo ↔ a ∈ s.storedTo ∨ a ∈ addrsFrom (s.x h.rs1).toNat h.bytes)

/-- 41_vm_load_store.md R256 to R264, R272 (an inference of the spec): a load that is not barred or misaligned and whose translated read succeeds
completes with the extended value; no CSR, mode or other register changes, and memory only by accessed and dirty bits. -/
def Obligations.VmLoadCompletesAndKeepsEverythingElse : Prop :=
  ∀ (s s' : State) (i : Instr) (h : LoadShape) (w : Word), loadShape i = some h → s.mayRunVm i →
    s.misalignedFor (s.x h.rs1) h.bytes = false →
    s.vmemRead (s.x h.rs1) h.bytes (s.virtAccess h.kind) = .ok w s' →
    ∃ t, exec i s = .next t ∧ t.x h.rd = (if h.rd = 0 then 0 else fit s.xlen (extendLoaded h.signed h.bytes w)) ∧
      (∀ r : Reg, r ≠ h.rd → t.x r = s.x r) ∧ t.pc = fit s.xlen (s.pc + 4) ∧ SameControl s t ∧ t.mem = s'.mem ∧
      (s.cfg.hwUpdatesAD = false → t.mem = s.mem ∧ t.storedTo = s.storedTo)

/-- 41_vm_load_store.md R265 to R268, R272 (an inference of the spec): a store that is not barred or misaligned and whose address translates completes;
the bytes stored to are those `State.locate` gives, no other byte changes but accessed and dirty bits, no register and no CSR. -/
def Obligations.VmStoreCompletesAndKeepsEverythingElse : Prop :=
  ∀ (s s' : State) (i : Instr) (h : StoreShape) (spas : List Nat), storeShape i = some h → s.mayRunVm i →
    s.misalignedFor (s.x h.rs1) h.bytes = false →
    s.locate (s.x h.rs1) h.bytes (s.virtAccess .store) = .ok spas s' →
    ∃ t, exec i s = .next t ∧ t.regs = s.regs ∧ t.pc = fit s.xlen (s.pc + 4) ∧ SameControl s t ∧
      t.mem = Memory.writeBytes s'.mem (spas.zip (bytesOfValue s.vmBigEndian h.bytes (s.x h.rs2))) ∧
      (∀ a, a ∉ spas → Memory.readByte t.mem a = Memory.readByte s'.mem a) ∧
      (s.cfg.hwUpdatesAD = false → ∀ a, a ∉ spas → Memory.readByte t.mem a = Memory.readByte s.mem a)

/-- 41_vm_load_store.md R251: V = 1 raises the virtual instruction exception, U-mode with HU = 0 and an RV64-only form at
XLEN 32 the illegal instruction exception. (An RV64-only form at V = 1 where HSXLEN is 32 is illegal: log 31.) -/
def Obligations.VmInstructionsAreBarredByModeAndWidth : Prop :=
  ∀ (s : State) (i : Instr), loadShape i ≠ none ∨ storeShape i ≠ none →
    (s.v = true → (i.rv64Only = true → s.cfg.hsxlen = .x64) → exec i s = .next (s.raiseBarred 22 (encode i))) ∧
    (s.v = false → s.priv = .u → s.hu = false → exec i s = .next (s.raiseBarred 2 (encode i))) ∧
    (s.v = false → i.rv64Only = true → s.xlen = .x32 → exec i s = .next (s.raiseBarred 2 (encode i)))

/-- 41_vm_load_store.md R254 (2), 20_memory.md R148 (decision D23): a misaligned access raises code 4 or 6 with its address, before any
translation. R254 (3), R255, 20_memory.md R161, 92 D35: with both stages Bare an aligned access with a byte that is not memory
raises the access fault of its direction. That the address reported is the access's first, also where only later bytes are no
memory, is the model's choice (log 36). -/
def Obligations.MisalignedAndUnmappedVmAccessesTrap : Prop :=
  (∀ (s : State) (i : Instr) (h : LoadShape), loadShape i = some h → s.mayRunVm i → s.cfg.misalignedOk = false →
    (s.x h.rs1).toNat % h.bytes ≠ 0 →
    ∃ tr, exec i s = .next (s.raise
      { isInt := false, code := 4, tval := s.x h.rs1, tvalIsGva := true, transformed := tr })) ∧
  (∀ (s : State) (i : Instr) (h : StoreShape), storeShape i = some h → s.mayRunVm i → s.cfg.misalignedOk = false →
    (s.x h.rs1).toNat % h.bytes ≠ 0 →
    ∃ tr, exec i s = .next (s.raise
      { isInt := false, code := 6, tval := s.x h.rs1, tvalIsGva := true, transformed := tr })) ∧
  (∀ (s : State) (i : Instr) (h : LoadShape), loadShape i = some h → s.mayRunVm i → s.bothStagesBare →
    (s.x h.rs1).toNat % h.bytes = 0 → fit s.vsxlen (s.x h.rs1) = s.x h.rs1 →
    (∃ a ∈ addrsFrom (s.x h.rs1).toNat h.bytes, isMemory s.cfg a = false) →
    ∃ tr, exec i s = .next (s.raise
      { isInt := false, code := 5, tval := s.x h.rs1, tvalIsGva := true, transformed := tr })) ∧
  (∀ (s : State) (i : Instr) (h : StoreShape), storeShape i = some h → s.mayRunVm i → s.bothStagesBare →
    (s.x h.rs1).toNat % h.bytes = 0 → fit s.vsxlen (s.x h.rs1) = s.x h.rs1 →
    (∃ a ∈ addrsFrom (s.x h.rs1).toNat h.bytes, isMemory s.cfg a = false) →
    ∃ tr, exec i s = .next (s.raise
      { isInt := false, code := 7, tval := s.x h.rs1, tvalIsGva := true, transformed := tr }))

/-- 41_vm_load_store.md R255: a load or store whose translated access faults writes no register, goes to M-mode or, where
`medeleg` has its code, to HS-mode, never to VS-mode, and leaves SPV = 0, GVA = 1 and SPVP as it was, with the address of
the faulting portion in `stval`; `htval` is nonzero only for codes 21 and 23. That the portion of an access within one page is
reported by its first address is the model's choice (log 36). -/
def Obligations.VmAccessFaultLeavesSpv0AndGva1 : Prop :=
  ∀ (s s' : State) (i : Instr) (k : AccKind) (n : Nat) (rs1 : Reg) (f : AccFault) (a : Word),
    (∃ h, loadShape i = some h ∧ k = h.kind ∧ n = h.bytes ∧ rs1 = h.rs1) ∨
      (∃ h, storeShape i = some h ∧ k = .store ∧ n = h.bytes ∧ rs1 = h.rs1) →
    s.mayRunVm i → s.misalignedFor (s.x rs1) n = false →
    s.locate (s.x rs1) n (s.virtAccess k) = .fault f a s' →
    ∃ t, exec i s = .next t ∧ t.regs = s.regs ∧ t.mem = s'.mem ∧ t.v = false ∧
      ((s.x rs1).toNat % 4096 + n ≤ 4096 → a = s.x rs1) ∧
      (s.priv = .m ∨ bit s.medelegBits (f.code k) = false →
        t.priv = .m ∧ t.mach.mcause = BitVec.ofNat 64 (f.code k) ∧ t.mach.mtval = fit s.cfg.hsxlen a ∧
          t.mstatusMpv = false ∧ t.mstatusGva = true) ∧
      (s.priv ≠ .m → bit s.medelegBits (f.code k) = true →
        t.priv = .s ∧ t.sup.scause = BitVec.ofNat 64 (f.code k) ∧ t.sup.stval = fit s.cfg.hsxlen a ∧
          t.sup.sepc = fit s.cfg.hsxlen s.pc ∧ t.spv = false ∧ t.gva = true ∧ t.spvp = s.spvp ∧
          (f.code k ≠ 21 → f.code k ≠ 23 → t.hyp.htval = 0))

/-- 20_memory.md R147, an inference of the spec from R143: a value laid out in a byte order puts byte i at i or at n-1-i, and reads back in that order as its
low bytes; memory gives back what was written to it and keeps the rest. -/
def Obligations.BytesWrittenReadBackInTheirOrder : Prop :=
  (∀ (be : Bool) (n : Nat) (w : Word), valueOfBytes be (bytesOfValue be n w) = BitVec.ofNat 64 (w.toNat % 2 ^ (8 * n))) ∧
  (∀ (be : Bool) (n : Nat) (w : Word) (k : Nat), k < n →
    (bytesOfValue be n w)[k]? = some (w.extractLsb' (8 * (if be then n - 1 - k else k)) 8)) ∧
  (∀ (s : State) (addrs : List Nat) (bs : List Byte), s.memCanonical → addrs.Nodup → addrs.length = bs.length →
    (s.memWrite (addrs.zip bs)).memRead addrs = bs ∧
    ∀ a, a ∉ addrs → Memory.readByte (s.memWrite (addrs.zip bs)).mem a = Memory.readByte s.mem a)

/-! ## Translation -/

/-- 10_state.md R100, 20_memory.md R159: under Bare the G-stage is the identity and protects nothing; its only faults are
guest-page faults that report the address given, and access faults of its own table reads. 20_memory.md R162: with a
guest-page fault on the final address the reported guest physical address shares its two low bits with the guest virtual
address; on an implicit access of the VS-stage they are zero. 41_vm_load_store.md R270, R253, 20_memory.md R164 (general
knowledge): at a leaf the VS-stage needs U set for VU-mode and, for VS-mode, clear unless `vsstatus.SUM` allows a data access;
read permission for a load, or execute permission with MXR of `vsstatus` or the HS-level `sstatus`; execute permission for HLVX
and fetches; write permission for a store; else a page fault. The G-stage needs U set and the same permissions, with the HS-level
MXR alone; else a guest-page fault. HLVX reports the codes of a load. (The walk is the instance R164 sketches, log 17; that SUM
lets HLVX reach a user page is PRESUMED, log 37, that a fetch never does in VS-mode, log 20.) -/
def Obligations.GuestPageFaultsReportTheAddressThatFailed : Prop :=
  (∀ (s : State) (gpa : Nat) (k : AccKind) (mxr implicit : Bool) (n : Nat),
      (s.hgatpMode = 0 → s.gStage gpa k mxr implicit n = .ok gpa s) ∧
      (∀ f t, s.gStage gpa k mxr implicit n = .fault f t →
        f = .access ∨ f = .guestPage ⟨gpa, implicit, n, k == .store⟩)) ∧
  (∀ (s t : State) (va : Word) (acc : Access) (g : GuestFault), acc.effV = true →
      s.translate va acc = .fault (.guestPage g) t →
      (g.implicit = true → g.gpa % 4 = 0 ∧ (g.pteBytes = 4 ∨ g.pteBytes = 8)) ∧
      (g.implicit = false → g.gpa % 4 = va.toNat % 4)) ∧
  (∀ (s s' u : State) (sch : Scheme) (gva level base a : Nat) (rest : List Nat) (acc : Access) (p : Word),
      (s.vsWalk sch gva acc).entry level base u = .ok p s' → sch.usePte level p gva = .leaf a →
      let allowed := (acc.effPriv = .u ∧ pteU p = true ∨
          acc.effPriv ≠ .u ∧ (pteU p = false ∨ s.vsSum = true ∧ acc.kind ≠ .fetch)) ∧
        (acc.kind = .load → pteR p = true ∨ (s.vsMxr = true ∨ s.mxr = true) ∧ pteX p = true) ∧
        (acc.kind = .loadX ∨ acc.kind = .fetch → pteX p = true) ∧ (acc.kind = .store → pteW p = true)
      (allowed → needsAD acc.kind p = false → (s.vsWalk sch gva acc).walk (level :: rest) base u = .ok a s') ∧
      (¬ allowed → (s.vsWalk sch gva acc).walk (level :: rest) base u = .fault .page s')) ∧
  (∀ (s s' u : State) (sch : Scheme) (gpa level base a n : Nat) (rest : List Nat) (k : AccKind) (mxr im : Bool) (p : Word),
      (s.gWalk sch gpa k mxr im n).entry level base u = .ok p s' → sch.usePte level p gpa = .leaf a →
      let allowed := pteU p = true ∧ (k = .load → pteR p = true ∨ mxr = true ∧ pteX p = true) ∧
        (k = .loadX ∨ k = .fetch → pteX p = true) ∧ (k = .store → pteW p = true)
      (allowed → needsAD k p = false → (s.gWalk sch gpa k mxr im n).walk (level :: rest) base u = .ok a s') ∧
      (¬ allowed → (s.gWalk sch gpa k mxr im n).walk (level :: rest) base u =
        .fault (.guestPage ⟨gpa, im, n, k == .store⟩) s')) ∧
  (∀ (s t : State) (va : Word) (acc : Access) (spa : Nat), acc.effV = true → s.translate va acc = .ok spa t →
      ∃ gpa s', s.vsStage (fit s.vsxlen va).toNat acc = .ok gpa s' ∧ s'.gStage gpa acc.kind s.mxr false 0 = .ok spa t) ∧
  (∀ f : AccFault, f.code .loadX = f.code .load)

/-- 20_memory.md R165, an inference of the spec: a two-stage translation never uses a cached copy made under another VMID: dropping every such copy
changes no answer. That cached copies stand in State is the model's choice (log 18). -/
def Obligations.TranslationIgnoresOtherVirtualMachines : Prop :=
  ∀ (s : State) (va : Word) (acc : Access), acc.effV = true →
    ((s.flush fun e => e.key.stage != .single && e.key.vmid != s.hgatpVmid).translate va acc).outcome =
      (s.translate va acc).outcome

/-! ## CSR access by mode -/

/-- 40_csr_access.md R215: a VS CSR at its own address. R216, R212 (general knowledge): a hypervisor CSR other than `hgatp` at
its address; a write of `hgeip` is illegal in every mode. All six CSR instructions answer so (R221 to R226). -/
def Obligations.VsAndHypervisorCsrsAreReachedOnlyFromHsAndMMode : Prop :=
  (∀ (s : State) (w : Bool), ∀ p ∈ vsCsrAddrs,
      (s.v = true → s.csrAnswers (BitVec.ofNat 12 p.1) w (.error 22)) ∧
      (s.v = false → s.priv = .u → s.csrAnswers (BitVec.ofNat 12 p.1) w (.error 2)) ∧
      (s.v = false → s.priv ≠ .u → s.csrAnswers (BitVec.ofNat 12 p.1) w (.ok p.2))) ∧
  (∀ (s : State) (w : Bool), ∀ p ∈ hypCsrAddrs,
      (w = true → p.2 = .hgeip → s.csrAnswers (BitVec.ofNat 12 p.1) w (.error 2)) ∧
      (w = false ∨ p.2 ≠ .hgeip →
        (s.v = true → s.csrAnswers (BitVec.ofNat 12 p.1) w (.error 22)) ∧
        (s.v = false → s.priv = .u → s.csrAnswers (BitVec.ofNat 12 p.1) w (.error 2)) ∧
        (s.v = false → s.priv ≠ .u → s.csrAnswers (BitVec.ofNat 12 p.1) w (.ok p.2))))

/-- 40_csr_access.md R211, R214, R220, R217: a supervisor CSR's name reaches the CSR in HS- and M-mode and its replica in
VS-mode; U-mode is illegal, VU-mode virtual; `scounteren` has no replica. -/
def Obligations.SupervisorCsrNamesReachReplicasInVsMode : Prop :=
  (∀ (s : State) (w : Bool), ∀ p ∈ supCsrAddrs,
    (s.priv ≠ .u → s.csrAnswers (BitVec.ofNat 12 p.1) w (.ok (if s.v then p.2.2 else p.2.1))) ∧
    (s.priv = .u → s.csrAnswers (BitVec.ofNat 12 p.1) w (.error (if s.v then 22 else 2)))) ∧
  (∀ (s : State) (w : Bool),
    (s.priv ≠ .u → s.csrAnswers 0x106 w (.ok .scounteren)) ∧
    (s.priv = .u → s.csrAnswers 0x106 w (.error (if s.v then 22 else 2))))

/-- 40_csr_access.md R218, R219, R216: `mstatus.TVM` bars `hgatp` and `satp` in HS-mode, `hstatus.VTVM` bars `satp` in VS-mode;
M-mode is unaffected and TVM does not reach VS-mode. (Clauses of R219 on `satp` and of R216 on `hgatp` at V = 1 are general
knowledge by the spec's mark.) -/
def Obligations.TvmAndVtvmGateTheTranslationRegisters : Prop :=
  (∀ (s : State) (w : Bool), s.v = false →
    (s.priv = .s → s.csrAnswers 0x680 w (if s.mstatusTvm then .error 2 else .ok .hgatp)) ∧
    (s.priv = .s → s.csrAnswers 0x180 w (if s.mstatusTvm then .error 2 else .ok .satp)) ∧
    (s.priv = .m → s.csrAnswers 0x680 w (.ok .hgatp) ∧ s.csrAnswers 0x180 w (.ok .satp)) ∧
    (s.priv = .u → s.csrAnswers 0x680 w (.error 2) ∧ s.csrAnswers 0x180 w (.error 2))) ∧
  (∀ (s : State) (w : Bool), s.v = true →
    s.csrAnswers 0x680 w (.error 22) ∧
    (s.priv = .s → s.csrAnswers 0x180 w (if s.vtvm then .error 22 else .ok .vsatp)) ∧
    (s.priv = .u → s.csrAnswers 0x180 w (.error 22)))

/-- 40_csr_access.md R212: an address of no CSR, a write to a read-only address and, below M-mode, a machine CSR are illegal
at V = 0 and at V = 1; M-mode reaches the machine CSRs. That no CSR exists outside `csrTable` and the counters is the model's
choice (log 43). -/
def Obligations.UnimplementedReadOnlyAndMachineCsrsAreIllegal : Prop :=
  (∀ (s : State) (a : CsrAddr) (w : Bool), csrAt a = none → s.csrAnswers a w (.error 2)) ∧
  (∀ (s : State) (a : CsrAddr), a.extractLsb' 10 2 = 3 → s.csrAnswers a true (.error 2)) ∧
  (∀ (s : State) (w : Bool), s.cfg.hsxlen = .x64 → s.csrAnswers 0x615 w (.error 2)) ∧
  (∀ (s : State) (w : Bool), ∀ p ∈ machCsrAddrs,
    s.csrAnswers (BitVec.ofNat 12 p.1) w (if s.priv = .m then .ok p.2 else .error 2))

/-- 40_csr_access.md R230, R231: which counter reads are permitted, and which exception a barred one raises, in every mode;
the high halves by the same bit. (That a 64-bit hart has the high halves while the current XLEN is 32 is DEDUCED, log 39.) -/
def Obligations.CounterReadsAreGatedByTheEnableRegisters : Prop :=
  ∀ (s : State) (n : BitVec 5) (a : CsrAddr) (c : Csr),
    (a = 0b1100000#7 ++ n ∧ c = .counter n) ∨ (s.xlen = .x32 ∧ a = 0b1100100#7 ++ n ∧ c = .counterh n) →
    s.csrAnswers a false
      (if s.v then
        (if s.mach.mcounteren.getLsbD n.toNat = false then .error 2
         else if s.hyp.hcounteren.getLsbD n.toNat = false then .error 22
         else if s.priv = .u ∧ s.sup.scounteren.getLsbD n.toNat = false then .error 22
         else .ok c)
       else if s.priv = .m then .ok c
       else if s.mach.mcounteren.getLsbD n.toNat = false then .error 2
       else if s.priv = .u ∧ s.sup.scounteren.getLsbD n.toNat = false then .error 2
       else .ok c)

/-- 40_csr_access.md R232 to R234: a permitted read of `time` completes with the 64-bit sum of `time` and the delta at V = 1,
and with `time` itself at V = 0; the other counters are not offset. 10_state.md R89 to R91: the delta is one register at
HSXLEN = 64 and two halves at HSXLEN = 32. (R233 and R234 are inferences of the spec from R232, with decision D33.) -/
def Obligations.TimeReadAtV1IsOffsetByHtimedelta : Prop :=
  (∀ (s : State) (rd : Reg), s.resolveCsr 0xC01 false = .ok (.counter 1) →
    exec (.csrrs rd 0xC01 0) s = .next ((s.setX rd (fit s.xlen
      (BitVec.ofNat 64 ((s.counters[1].toNat + (if s.v then s.hyp.htimedelta.toNat else 0)) % 2 ^ 64)))).advance)) ∧
  (∀ (s : State) (rd : Reg), s.xlen = .x32 → s.resolveCsr 0xC81 false = .ok (.counterh 1) →
    exec (.csrrs rd 0xC81 0) s = .next ((s.setX rd (BitVec.ofNat 64
      ((s.counters[1].toNat + (if s.v then s.hyp.htimedelta.toNat else 0)) % 2 ^ 64 / 2 ^ 32))).advance)) ∧
  (∀ (s : State) (rd : Reg) (n : BitVec 5), n ≠ 1 → s.resolveCsr (0b1100000#7 ++ n) false = .ok (.counter n) →
    exec (.csrrs rd (0b1100000#7 ++ n) 0) s = .next ((s.setX rd (fit s.xlen s.counters[n.toNat])).advance)) ∧
  (∀ (s : State) (w : Word),
      (s.cfg.hsxlen = .x64 → ∃ t, s.writeCsr .htimedelta w = .ok t ∧ t.hyp.htimedelta = w ∧ t.readCsr .htimedelta = w) ∧
      (s.cfg.hsxlen = .x32 →
        (∃ t, s.writeCsr .htimedelta w = .ok t ∧ t.readCsr .htimedelta = fit .x32 w ∧
          t.readCsr .htimedeltah = s.readCsr .htimedeltah) ∧
        (∃ t, s.writeCsr .htimedeltah w = .ok t ∧ t.readCsr .htimedeltah = fit .x32 w ∧
          t.readCsr .htimedelta = s.readCsr .htimedelta)))

/-! ## CSR instructions -/

/-- 40_csr_access.md R210, R221 to R226. With x0 or a zero immediate CSRRS, CSRRC, CSRRSI and CSRRCI make no write: a
permitted access completes with the old value in rd and changes nothing else but the pc. A permitted access whose write is
not refused completes: the CSR gets the new value each form computes from the old one, rd the old value, and the pc moves on. -/
def Obligations.CsrInstructionsCompleteWithTheirNewValue : Prop :=
  (∀ (s : State) (rd : Reg) (a : CsrAddr) (c : Csr), s.resolveCsr a false = .ok c →
      ∃ t, t.x rd = (if rd = 0 then 0 else fit s.xlen (s.readCsr c)) ∧ (∀ r : Reg, r ≠ rd → t.x r = s.x r) ∧
        t.pc = fit s.xlen (s.pc + 4) ∧ SameControl s t ∧ SameMemory s t ∧
        exec (.csrrs rd a 0) s = .next t ∧ exec (.csrrc rd a 0) s = .next t ∧ exec (.csrrsi rd a 0) s = .next t ∧
        exec (.csrrci rd a 0) s = .next t) ∧
  (∀ (s u : State) (rd rs1 : Reg) (m : BitVec 5) (a : CsrAddr) (c : Csr) (v : Word),
      s.resolveCsr a true = .ok c → s.writeCsr c v = .ok u →
      (v = s.x rs1 → exec (.csrrw rd a rs1) s = .next ((u.setX rd (fit s.xlen (s.readCsr c))).advance)) ∧
      (rs1 ≠ 0 → v = s.readCsr c ||| s.x rs1 →
        exec (.csrrs rd a rs1) s = .next ((u.setX rd (fit s.xlen (s.readCsr c))).advance)) ∧
      (rs1 ≠ 0 → v = s.readCsr c &&& ~~~(s.x rs1) →
        exec (.csrrc rd a rs1) s = .next ((u.setX rd (fit s.xlen (s.readCsr c))).advance)) ∧
      (v = m.setWidth 64 → exec (.csrrwi rd a m) s = .next ((u.setX rd (fit s.xlen (s.readCsr c))).advance)) ∧
      (m ≠ 0 → v = s.readCsr c ||| m.setWidth 64 →
        exec (.csrrsi rd a m) s = .next ((u.setX rd (fit s.xlen (s.readCsr c))).advance)) ∧
      (m ≠ 0 → v = s.readCsr c &&& ~~~(m.setWidth 64) →
        exec (.csrrci rd a m) s = .next ((u.setX rd (fit s.xlen (s.readCsr c))).advance)))

/-- 40_csr_access.md R221 to R227, 10_state.md R60, R61: the six instructions on `hvip` in HS- or M-mode complete; `hvip` keeps
bits 10, 6 and 2 of the new value, rd gets the old `hvip`, and nothing else but the pc changes. -/
def Obligations.HvipThroughTheSixCsrInstructions : Prop :=
  ∀ (s : State) (rd rs1 : Reg) (m : BitVec 5), s.v = false → s.priv ≠ .u →
    ∀ p ∈ [(Instr.csrrw rd 0x645 rs1, s.x rs1), (.csrrs rd 0x645 rs1, s.readCsr .hvip ||| s.x rs1),
      (.csrrc rd 0x645 rs1, s.readCsr .hvip &&& ~~~(s.x rs1)), (.csrrwi rd 0x645 m, m.setWidth 64),
      (.csrrsi rd 0x645 m, s.readCsr .hvip ||| m.setWidth 64),
      (.csrrci rd 0x645 m, s.readCsr .hvip &&& ~~~(m.setWidth 64))],
      ∃ t, exec p.1 s = .next t ∧ t.readCsr .hvip = p.2 &&& 0x444 ∧
        t.x rd = (if rd = 0 then 0 else fit s.xlen (s.readCsr .hvip)) ∧ (∀ r : Reg, r ≠ rd → t.x r = s.x r) ∧
        t.pc = fit s.xlen (s.pc + 4) ∧ SameMemory s t ∧ SameControl { s with hyp := { s.hyp with hvip := t.hyp.hvip } } t

/-- 40_csr_access.md R237: a CSR instruction that is barred writes no CSR but those of the trap, no register and no memory;
the trap value is 0 or the instruction's bits (decision D29). -/
def Obligations.BarredCsrInstructionOnlyTraps : Prop :=
  ∀ (s : State) (rd rs1 : Reg) (a : CsrAddr) (m : BitVec 5) (e : Nat),
    (s.resolveCsr a true = .error e → ∀ i ∈ [Instr.csrrw rd a rs1, .csrrwi rd a m],
      (e = 2 ∨ e = 22) ∧ ∃ d : Bool, exec i s = .next (s.enter (s.exceptionTarget e)
        { isInt := false, code := e, tval := if d then (encode i).setWidth 64 else 0, tvalIsGva := false } s.pc)) ∧
    (s.resolveCsr a (rs1 != 0) = .error e → ∀ i ∈ [Instr.csrrs rd a rs1, .csrrc rd a rs1],
      (e = 2 ∨ e = 22) ∧ ∃ d : Bool, exec i s = .next (s.enter (s.exceptionTarget e)
        { isInt := false, code := e, tval := if d then (encode i).setWidth 64 else 0, tvalIsGva := false } s.pc)) ∧
    (s.resolveCsr a (m != 0) = .error e → ∀ i ∈ [Instr.csrrsi rd a m, .csrrci rd a m],
      (e = 2 ∨ e = 22) ∧ ∃ d : Bool, exec i s = .next (s.enter (s.exceptionTarget e)
        { isInt := false, code := e, tval := if d then (encode i).setWidth 64 else 0, tvalIsGva := false } s.pc))

/-- 40_csr_access.md R227: a CSR write changes CSRs only: no general register, no byte of memory, no mode, no counter, no
cached translation (10_state.md R106, 20_memory.md R172: a write of `hgatp` or `vsatp` is no fence). -/
def Obligations.CsrWriteChangesOnlyCsrs : Prop :=
  ∀ (s t : State) (c : Csr) (w : Word), s.writeCsr c w = .ok t →
    t.cfg = s.cfg ∧ t.regs = s.regs ∧ t.pc = s.pc ∧ t.priv = s.priv ∧ t.v = s.v ∧ t.counters = s.counters ∧
      t.mem = s.mem ∧ t.storedTo = s.storedTo ∧ t.tlb = s.tlb ∧ t.plat = s.plat ∧ t.tick = s.tick

/-! ## CSR fields -/

/-- 10_state.md R51 to R54: `hedeleg` keeps exactly the writable bits of Table 5.2 (bit 0 when IALIGN is 32), `hideleg`
exactly bits 10, 6 and 2. 10_state.md R82: `hgeie` keeps bits GEILEN:1, `hgeip` shows those of the input, both hardwired zero
elsewhere. 40_csr_access.md R227: `hie` keeps bits 10, 6, 2 and, with guest external interrupts, 12, and no other `mie` bit
changes; `hcounteren` keeps the implemented bits; `htval` and `htinst` keep a legal value and read some legal value after any
other. (Decisions D10, D11, D12, D13: bit 0 at IALIGN 16 and every unlisted bit are hardwired to zero. Which legal value an illegal
one leaves is free, log 15.) -/
def Obligations.DelegationAndGuestInterruptBitsAreAsTabled : Prop :=
  (∀ (s : State) (w : Word),
    (∃ t, s.writeCsr .hedeleg w = .ok t ∧ ∀ i, bit (t.readCsr .hedeleg) i =
      (bit w i && (decide (i ∈ [1, 2, 3, 4, 5, 6, 7, 8, 12, 13, 15]) || (i == 0 && s.cfg.ialign == .i32)))) ∧
    (∃ t, s.writeCsr .hideleg w = .ok t ∧
      ∀ i, bit (t.readCsr .hideleg) i = (bit w i && decide (i ∈ [10, 6, 2]))) ∧
    (∃ t, s.writeCsr .hie w = .ok t ∧
      (∀ i, bit (t.readCsr .hie) i = (bit w i && (decide (i ∈ [10, 6, 2]) || (i == 12 && s.cfg.geilen != 0)))) ∧
      ∀ i, i ∉ [12, 10, 6, 2] → bit (t.readCsr .mie) i = bit (s.readCsr .mie) i) ∧
    (∃ t, s.writeCsr .hcounteren w = .ok t ∧
      ∀ i, bit (t.readCsr .hcounteren) i = (bit w i && s.cfg.hcounterenMask.getLsbD i)) ∧
    (∃ t, s.writeCsr .htval w = .ok t ∧ (t.readCsr .htval = 0 ∨ Config.htvalHolds (t.readCsr .htval) = true) ∧
      (t.readCsr .htval = fit s.cfg.hsxlen w ∨
        fit s.cfg.hsxlen w ≠ 0 ∧ Config.htvalHolds (fit s.cfg.hsxlen w) = false)) ∧
    (∃ t, s.writeCsr .htinst w = .ok t ∧ (t.readCsr .htinst = 0 ∨ Config.htinstHolds (t.readCsr .htinst) = true) ∧
      (s.cfg.htinstNonzero = false → t.readCsr .htinst = 0) ∧
      (s.cfg.htinstNonzero = true → t.readCsr .htinst = fit s.cfg.hsxlen w ∨
        Config.htinstHolds (fit s.cfg.hsxlen w) = false))) ∧
  (∀ s : State, s.cfg.geilen < s.cfg.hsxlen.bits →
    (∀ w, ∃ t, s.writeCsr .hgeie w = .ok t ∧
      ∀ i, bit (t.readCsr .hgeie) i = (bit w i && decide (1 ≤ i ∧ i ≤ s.cfg.geilen))) ∧
    (∀ i, bit (s.readCsr .hgeip) i = (bit s.plat.hgeipIn i && decide (1 ≤ i ∧ i ≤ s.cfg.geilen))))

/-- 10_state.md R66, R68, R70, R71, R72: `hip` as read is computed from `hvip`, `hgeip`, `hgeie`, VGEIN and the platform's
signals; every bit but 12, 10, 6 and 2 reads zero (decision D12). -/
def Obligations.HipIsComputedFromItsSources : Prop :=
  ∀ s : State,
    bit (s.readCsr .hip) 12 = ((s.readCsr .hgeip &&& s.readCsr .hgeie) != 0) ∧
    bit (s.readCsr .hip) 10 = (bit (s.readCsr .hvip) 10 || bit (s.readCsr .hgeip) s.vgein || s.plat.vsei) ∧
    bit (s.readCsr .hip) 6 = (bit (s.readCsr .hvip) 6 || s.plat.vsti) ∧
    bit (s.readCsr .hip) 2 = bit (s.readCsr .hvip) 2 ∧
    (∀ i, i ∉ [12, 10, 6, 2] → bit (s.readCsr .hip) i = false) ∧
    (∀ w, ∃ t, s.writeCsr .hip w = .ok t ∧ bit (t.readCsr .hip) 2 = bit w 2 ∧ bit (t.readCsr .hvip) 2 = bit w 2 ∧
      ∀ i, i ≠ 2 → bit (t.readCsr .hip) i = bit (s.readCsr .hip) i)

/-- 10_state.md R118, R119: `vsip` and `vsie` show the `hip` and `hie` bits one position above that `hideleg` delegates, and
zero where it does not; a write of `vsie` updates the delegated `hie` bits and no other, a write of `vsip` updates
`hvip.VSSIP` when `hideleg[2]` is set and nothing else (R119's last part is the spec's inference). -/
def Obligations.VsipAndVsieAliasTheDelegatedBits : Prop :=
  (∀ (s : State), ∀ p ∈ [(9, 10), (5, 6), (1, 2)],
      bit (s.readCsr .vsip) p.1 = (bit (s.readCsr .hideleg) p.2 && bit (s.readCsr .hip) p.2) ∧
      bit (s.readCsr .vsie) p.1 = (bit (s.readCsr .hideleg) p.2 && bit (s.readCsr .hie) p.2)) ∧
  (∀ (s : State) (w : Word),
      (∃ t, s.writeCsr .vsie w = .ok t ∧
        (∀ p ∈ [(9, 10), (5, 6), (1, 2)], bit (t.readCsr .hie) p.2 =
          if bit (s.readCsr .hideleg) p.2 then bit w p.1 else bit (s.readCsr .hie) p.2) ∧
        (∀ i, i ∉ [10, 6, 2] → bit (t.readCsr .mie) i = bit (s.readCsr .mie) i) ∧
        t.mach = { s.mach with mie := t.mach.mie } ∧ t.hyp = s.hyp ∧ t.vs = s.vs ∧ t.sup = s.sup) ∧
      (∃ t, s.writeCsr .vsip w = .ok t ∧
        (bit (t.readCsr .hvip) 2 = if bit (s.readCsr .hideleg) 2 then bit w 1 else bit (s.readCsr .hvip) 2) ∧
        (∀ i, i ≠ 2 → bit (t.readCsr .hvip) i = bit (s.readCsr .hvip) i) ∧
        t.hyp = { s.hyp with hvip := t.hyp.hvip } ∧ t.mach = s.mach ∧ t.vs = s.vs ∧ t.sup = s.sup))

/-- 10_state.md R102 to R104, 40_csr_access.md R227: a write of `hgatp` is never ignored: VMID is cut to VMIDLEN bits, PPN to a
multiple of 4 with the bits below the physical address width as written, and MODE is the written one where supported and else
some supported one. (That PPN bits 1:0 always read zero is decision D6; that the fields are stored under Bare too, log 14; which
PPN bits are stored, log 23.) -/
def Obligations.HgatpWriteIsNeverIgnored : Prop :=
  ∀ (s : State) (w : Word), s.cfg.valid = true →
    ∃ t, s.writeCsr .hgatp w = .ok t ∧ t.hgatpMode ∈ s.cfg.hgatpModes ∧
      (satpMode s.cfg.hsxlen w ∈ s.cfg.hgatpModes → t.hgatpMode = satpMode s.cfg.hsxlen w) ∧
      t.hgatpVmid = (match s.cfg.hsxlen with | .x32 => field w 22 7 | .x64 => field w 44 14) % 2 ^ s.cfg.vmidlen ∧
      t.hgatpPpn % 4 = 0 ∧
      t.hgatpPpn % 2 ^ (s.cfg.paBits - 12) = satpPpn s.cfg.hsxlen w % 2 ^ (s.cfg.paBits - 12) / 4 * 4 ∧
      (satpPpn s.cfg.hsxlen w < 2 ^ (s.cfg.paBits - 12) → t.hgatpPpn = satpPpn s.cfg.hsxlen w / 4 * 4)

/-- 10_state.md R38, 40_csr_access.md R227, 92 D28: a write of `hstatus` with VGEIN at most GEILEN stores its fields; a
greater VGEIN is refused, but with GEILEN = 0 the field is hardwired to zero and the write is not refused (log 12). R34: at
HSXLEN = 64 VSXL becomes the written value where that is legal and else some legal one; R109: where that widens VSXLEN from 32,
`vsstatus.UXL` becomes the widest supported width. Where VSXLEN changes, `vsatp` then holds a supported MODE at the new width
(00_scope.md R11), and apart from these no VS CSR changes (that their storage is kept is log 16). -/
def Obligations.HstatusWriteStoresItsFieldsAndRefusesIllegalVgein : Prop :=
  ∀ (s : State) (w : Word), s.cfg.geilen < 64 →
    (s.cfg.geilen ≠ 0 → s.cfg.geilen < field w 12 6 →
      s.writeCsr .hstatus w = .error (.wlrlIllegalValue "hstatus.VGEIN")) ∧
    (field w 12 6 ≤ s.cfg.geilen ∨ s.cfg.geilen = 0 →
      ∃ t, s.writeCsr .hstatus w = .ok t ∧ (∀ i ∈ [22, 21, 20, 9, 8, 7, 6], bit (t.readCsr .hstatus) i = bit w i) ∧
        field (t.readCsr .hstatus) 12 6 = (if s.cfg.geilen = 0 then 0 else field w 12 6) ∧
        bit (t.readCsr .hstatus) 5 = (s.cfg.vsbeWritable && bit w 5) ∧
        (∀ i, i < 32 → i ∉ [22, 21, 20, 17, 16, 15, 14, 13, 12, 9, 8, 7, 6, 5] → bit (t.readCsr .hstatus) i = false) ∧
        t.mach = s.mach ∧ t.sup = s.sup ∧
        (s.cfg.valid = true → s.cfg.hsxlen = .x64 →
          field (t.readCsr .hstatus) 32 2 = t.vsxl ∧ t.vsxl ∈ s.cfg.vsxlLegal ∧
          (field w 32 2 ∈ s.cfg.vsxlLegal → t.vsxl = field w 32 2)) ∧
        (t.vsxlen = s.vsxlen → t.vs = s.vs) ∧
        (t.vsxlen ≠ s.vsxlen →
          t.vs = { s.vs with vsstatus := t.vs.vsstatus, vsatp := t.vs.vsatp } ∧
          (∀ i, i ≠ 32 → i ≠ 33 → bit t.vs.vsstatus i = bit s.vs.vsstatus i) ∧
          (s.vsxlen = .x64 → t.vs.vsstatus = s.vs.vsstatus) ∧
          (s.vsxlen = .x32 → field t.vs.vsstatus 32 2 = (if 2 ∈ s.cfg.uxlLegal then 2 else 1)) ∧
          (s.cfg.valid = true → satpMode t.vsxlen t.vs.vsatp ∈ vsatpModesAt s.cfg t.vsxlen ∧
            (satpMode t.vsxlen s.vs.vsatp ∈ vsatpModesAt s.cfg t.vsxlen →
              satpMode t.vsxlen t.vs.vsatp = satpMode t.vsxlen s.vs.vsatp))))

/-- 40_csr_access.md R227, rows of the VS CSRs. 10_state.md R128: a write of `vsatp` with an unsupported MODE is WARL at V = 0 and
has no effect at V = 1 (through the `satp` address); else it leaves a supported MODE, the written one where that is supported,
and ASID and PPN as written in their implemented bits. That the other fields are stored with an unsupported MODE, and which bits
are implemented, is the model's choice (log 15, 23). The other rows: each register keeps the bits its rule lists (R108, R109, R112,
R121, R123 to R126); an unlisted cause is refused (D28; the listed causes, log 11). -/
def Obligations.VsatpWriteDependsOnVWhenTheModeIsUnsupported : Prop :=
  ∀ (s : State) (w : Word), s.cfg.valid = true →
    (satpMode s.vsxlen w ∉ vsatpModesAt s.cfg s.vsxlen → s.v = true → s.writeCsr .vsatp w = .ok s) ∧
    (satpMode s.vsxlen w ∈ vsatpModesAt s.cfg s.vsxlen ∨ s.v = false → ∃ t, s.writeCsr .vsatp w = .ok t ∧
      satpMode s.vsxlen t.vs.vsatp ∈ vsatpModesAt s.cfg s.vsxlen ∧
      (satpMode s.vsxlen w ∈ vsatpModesAt s.cfg s.vsxlen → satpMode s.vsxlen t.vs.vsatp = satpMode s.vsxlen w) ∧
      satpAsid s.vsxlen t.vs.vsatp % 2 ^ s.cfg.asidlen = satpAsid s.vsxlen w % 2 ^ s.cfg.asidlen ∧
      (satpAsid s.vsxlen w < 2 ^ s.cfg.asidlen → satpAsid s.vsxlen t.vs.vsatp = satpAsid s.vsxlen w) ∧
      satpPpn s.vsxlen t.vs.vsatp % 2 ^ s.cfg.vsatpPpnBits = satpPpn s.vsxlen w % 2 ^ s.cfg.vsatpPpnBits ∧
      (satpPpn s.vsxlen w < 2 ^ s.cfg.vsatpPpnBits → satpPpn s.vsxlen t.vs.vsatp = satpPpn s.vsxlen w) ∧
      t.vs = { s.vs with vsatp := t.vs.vsatp }) ∧
    (∃ t, s.writeCsr .vsstatus w = .ok t ∧
      (∀ i ∈ [1, 5, 8, 13, 14, 18, 19], bit (t.readCsr .vsstatus) i = bit w i) ∧
      (∀ i ∈ [15, 16], bit (t.readCsr .vsstatus) i = bit (s.readCsr .vsstatus) i) ∧
      bit (t.readCsr .vsstatus) 6 = (if s.cfg.ubeCopy then s.vsbe else bit w 6) ∧
      (s.vsxlen = .x64 → (s.cfg.uxlCopy = true → t.vsUxl = s.vsUxl) ∧
        (s.cfg.uxlCopy = false → t.vsUxl ∈ s.cfg.uxlLegal ∧ (field w 32 2 ∈ s.cfg.uxlLegal → t.vsUxl = field w 32 2))) ∧
      (∀ i, i < 31 → i ∉ [1, 5, 6, 8, 13, 14, 15, 16, 18, 19] → bit (t.readCsr .vsstatus) i = false)) ∧
    (∃ t, s.writeCsr .vstvec w = .ok t ∧
      ∀ i, i < s.vsxlen.bits → bit (t.readCsr .vstvec) i = (bit w i && i != 1)) ∧
    (∃ t, s.writeCsr .vsscratch w = .ok t ∧ ∀ i, i < s.vsxlen.bits → bit (t.readCsr .vsscratch) i = bit w i) ∧
    (∃ t, s.writeCsr .vsepc w = .ok t ∧
      ∀ i, i < s.vsxlen.bits → bit (t.readCsr .vsepc) i = (bit w i && i != 0 && (i != 1 || s.cfg.ialign == .i16))) ∧
    (causeLegal s.vsxlen w = true →
      ∃ t, s.writeCsr .vscause w = .ok t ∧ ∀ i, i < s.vsxlen.bits → bit (t.readCsr .vscause) i = bit w i) ∧
    (causeLegal s.vsxlen w = false → s.writeCsr .vscause w = .error (.wlrlIllegalValue "vscause")) ∧
    (∃ t, s.writeCsr .vstval w = .ok t ∧ ∀ i, i < s.vsxlen.bits → bit (t.readCsr .vstval) i = bit w i)

/-- 10_state.md R111, 42_privileged.md R300 to R302: SD of `vsstatus` is of its own FS and XS; a floating-point word or 16-bit
parcel fetched (of the encodings the model presumes, log 27) with FS Off is illegal, at V = 1 if either FS is Off. The third clause
is about `State.floatDirty` alone, the operation R301 describes, which no step calls, floating-point instructions being out of
scope (R302): it turns both FS Dirty at V = 1, and that it turns the HS-level one Dirty at V = 0 is the model's (log 27). -/
def Obligations.FloatingPointStateIsGatedAndTracked : Prop :=
  (∀ s : State, bit s.readVsstatus (s.vsxlen.bits - 1) = (s.vsFs == 3 || field s.vs.vsstatus 15 2 == 3)) ∧
  (∀ (s s' : State) (w : InstrWord), s.interrupt = none → s.fetch = .word w s' →
    decode w = .error .floatingPoint ∨ decode w = .error .compressed ∧ isFloatParcel s'.xlen w = true →
    s'.fs = 0 ∨ (s'.v = true ∧ s'.vsFs = 0) → step s = .next (s'.raiseBarred 2 w).platformStep) ∧
  (∀ s : State, s.floatDirty.fs = 3 ∧ s.floatDirty.vsFs = if s.v then 3 else s.vsFs)

/-! ## Interrupts -/

/-- 60_exceptions.md R335: an interrupt taken into HS-mode is pending for it, and none before it in SEI, SSI, STI, SGEI, VSEI,
VSSI, VSTI is. R330, 92 D32: with no M-level interrupt to take, an HS-level one is taken exactly when HS-level interrupts are
globally enabled and one is pending, enabled and destined for HS-mode. -/
def Obligations.HsInterruptsAreTakenWhenPendingInTheStatedOrder : Prop :=
  (∀ (s : State) (i : Nat), s.interrupt = some (.hyper, i) →
      i ∈ [9, 1, 5, 12, 10, 2, 6] ∧ s.hyperPending i = true ∧
      ∀ j ∈ [9, 1, 5, 12, 10, 2, 6],
        [9, 1, 5, 12, 10, 2, 6].idxOf j < [9, 1, 5, 12, 10, 2, 6].idxOf i → s.hyperPending j = false) ∧
  (∀ s : State, (∀ i, s.interrupt ≠ some (.machine, i)) →
      ((∃ i, s.interrupt = some (.hyper, i)) ↔
        (s.priv ≠ .m ∧ (s.v = true ∨ s.priv = .u ∨ s.sie = true)) ∧
        ∃ i, (i ∈ [1, 5, 9] ∧ bit (s.readCsr .sip) i = true ∧ bit (s.readCsr .sie) i = true ∧
              bit (s.readCsr .mideleg) i = true) ∨
          (i = 12 ∧ bit (s.readCsr .hip) 12 = true ∧ bit (s.readCsr .hie) 12 = true) ∨
          (i ∈ [2, 6, 10] ∧ bit (s.readCsr .hip) i = true ∧ bit (s.readCsr .hie) i = true ∧
              bit (s.readCsr .hideleg) i = false)))

/-- 60_exceptions.md R331: a delegated interrupt is taken into VS-mode only while V = 1, when VS-level interrupts are enabled
and `hip`, `hie` and `hideleg` have it, which is when `vsip` and `vsie` have it one position below. R332 (decision D25): `mideleg` bits 12,
10, 6 and 2 are read-only one, bits 9, 5 and 1 writable, and VS-level and guest external interrupts never go to M-mode. R336
(general knowledge): within VS-mode the order is VSEI, VSSI, VSTI; an M-level interrupt comes before every HS-level one, in the
order MEI, MSI, MTI, and an HS-level one before every VS-level one. That the SEI, SSI and STI that `mideleg` keeps at M-level come
after these three is PRESUMED (log 28). -/
def Obligations.VirtualInterruptsGoToTheirLevels : Prop :=
  (∀ (s : State) (i : Nat), s.interrupt = some (.guest, i) →
    s.v = true ∧ (s.priv = .u ∨ s.vsSie = true) ∧ i ∈ [10, 2, 6] ∧ bit (s.readCsr .hip) i = true ∧
      bit (s.readCsr .hie) i = true ∧ bit (s.readCsr .hideleg) i = true ∧
      bit (s.readCsr .vsip) (i - 1) = true ∧ bit (s.readCsr .vsie) (i - 1) = true) ∧
  (∀ (s : State) (i : Nat), s.v = true → s.priv = .u ∨ s.vsSie = true → i ∈ [10, 2, 6] →
    bit (s.readCsr .hip) i = true → bit (s.readCsr .hie) i = true → bit (s.readCsr .hideleg) i = true →
    ∃ g j, s.interrupt = some (g, j)) ∧
  (∀ (s : State) (w : Word), ∃ t, s.writeCsr .mideleg w = .ok t ∧
    (∀ i ∈ [12, 10, 6, 2], bit (t.readCsr .mideleg) i = true) ∧
    (∀ i ∈ [9, 5, 1], bit (t.readCsr .mideleg) i = bit w i)) ∧
  (∀ (s : State), ∀ i ∈ [12, 10, 6, 2], s.interrupt ≠ some (.machine, i)) ∧
  (∀ (s : State) (i j : Nat), s.interrupt = some (.guest, i) → j ∈ [10, 2, 6] →
    [10, 2, 6].idxOf j < [10, 2, 6].idxOf i →
    ¬ (bit (s.readCsr .hip) j = true ∧ bit (s.readCsr .hie) j = true ∧ bit (s.readCsr .hideleg) j = true)) ∧
  (∀ (s : State) (i : Nat), i ∈ [11, 3, 7] → s.priv ≠ .m ∨ s.mstatusMie = true → bit (s.readCsr .mip) i = true →
    bit (s.readCsr .mie) i = true →
    ∃ j ∈ [11, 3, 7], s.interrupt = some (.machine, j) ∧ [11, 3, 7].idxOf j ≤ [11, 3, 7].idxOf i) ∧
  (∀ (s : State) (i : Nat), i ∈ [9, 1, 5, 12, 10, 2, 6] → s.hyperGlobal = true → s.hyperPending i = true →
    ∃ g j, s.interrupt = some (g, j) ∧ g ≠ .guest)
end

