-- ==== Sys2Proof/Laws/Bits.lean ====
section
/-! SUPPORT. The bits and fields of what the register helpers of Machine/Bits.lean build. -/

namespace Sys2Proof.Machine

open Sys2Proof

@[simp] theorem bit_zero (i : Nat) : bit 0#64 i = false := by simp [bit]

@[simp] theorem bit_or (a b : Word) (i : Nat) : bit (a ||| b) i = (bit a i || bit b i) := by simp [bit]

@[simp] theorem bit_and (a b : Word) (i : Nat) : bit (a &&& b) i = (bit a i && bit b i) := by simp [bit]

theorem bit_not (a : Word) (i : Nat) : bit (~~~a) i = (decide (i < 64) && !bit a i) := by simp [bit]

@[simp] theorem bit_bitMask (i j : Nat) : bit (bitMask i) j = (decide (i < 64) && decide (j = i)) := by
  simp only [bit, bitMask, BitVec.getLsbD_shiftLeft, BitVec.getLsbD_one]
  by_cases h : j = i
  · subst h; simp
  · have : ¬ (j - i = 0 ∧ ¬ j < i) := by omega
    simp [h]; omega

/-- A merge takes the bits of its mask from the new value. -/
theorem bit_merge (m n o : Word) (i : Nat) : bit (merge m n o) i = if bit m i then bit n i else bit o i := by
  by_cases hi : i < 64
  · cases hm : bit m i <;> simp [merge, bit_not, hm, hi]
  · simp [bit, BitVec.getLsbD_of_ge _ _ (Nat.le_of_not_lt hi)]

/-- `setBit` changes one bit. -/
theorem bit_setBit (w : Word) (i j : Nat) (b : Bool) (hi : i < 64) :
    bit (setBit w i b) j = if j = i then b else bit w j := by
  by_cases h : j = i <;> cases b <;> simp [setBit, bit_merge, h, hi]

@[simp] theorem bit_setBit_self (w : Word) (i : Nat) (b : Bool) (hi : i < 64) : bit (setBit w i b) i = b := by
  simp [bit_setBit _ _ _ _ hi]

theorem bit_setBit_ne (w : Word) (i j : Nat) (b : Bool) (h : j ≠ i) : bit (setBit w i b) j = bit w j := by
  cases b <;> simp [setBit, bit_merge, h]

theorem bit_fieldMask (lo len j : Nat) (h : lo + len ≤ 64) :
    bit (fieldMask lo len) j = (decide (lo ≤ j) && decide (j < lo + len)) := by
  simp only [bit, fieldMask, BitVec.getLsbD_shiftLeft, BitVec.getLsbD_ofNat, Nat.testBit_two_pow_sub_one]
  rw [Bool.eq_iff_iff]
  simp only [Bool.and_eq_true, Bool.not_eq_true', decide_eq_true_eq, decide_eq_false_iff_not]
  omega

/-- `setField` changes one field. -/
theorem bit_setField (w : Word) (lo len n j : Nat) (h : lo + len ≤ 64) :
    bit (setField w lo len n) j = if lo ≤ j ∧ j < lo + len then n.testBit (j - lo) else bit w j := by
  rw [setField, bit_merge, bit_fieldMask _ _ _ h]
  by_cases h1 : lo ≤ j ∧ j < lo + len
  · have h2 : j < 64 := by omega
    have h3 : ¬ j < lo := by omega
    have h4 : j - lo < 64 := by omega
    simp only [h1, and_self, decide_true, Bool.and_true, if_true, bit, BitVec.getLsbD_shiftLeft, h2, h3,
      decide_false, Bool.not_false, Bool.true_and, BitVec.getLsbD_ofNat, h4]
  · have : ¬ (lo ≤ j ∧ j < lo + len) := h1
    simp only [Bool.and_eq_true, decide_eq_true_eq, if_neg this]

theorem bit_setField_out (w : Word) (lo len n j : Nat) (h : lo + len ≤ 64) (hj : j < lo ∨ lo + len ≤ j) :
    bit (setField w lo len n) j = bit w j := by
  rw [bit_setField _ _ _ _ _ h, if_neg (by omega)]

theorem testBit_field (w : Word) (lo len j : Nat) : (field w lo len).testBit j = (decide (j < len) && bit w (lo + j)) := by
  simp [field, bit, BitVec.getLsbD]

/-- Two words with the same bits are equal. -/
theorem word_eq_of_bits {a b : Word} (h : ∀ i, i < 64 → bit a i = bit b i) : a = b :=
  BitVec.eq_of_getLsbD_eq (fun i hi => h i hi)

/-- A field depends on its bits alone. -/
theorem field_congr {a b : Word} (lo len : Nat) (h : ∀ j, j < len → bit a (lo + j) = bit b (lo + j)) :
    field a lo len = field b lo len := by
  apply Nat.eq_of_testBit_eq
  intro j
  rw [testBit_field, testBit_field]
  by_cases hj : j < len
  · rw [h j hj]
  · simp [hj]

@[simp] theorem field_setField (w : Word) (lo len n : Nat) (h : lo + len ≤ 64) :
    field (setField w lo len n) lo len = n % 2 ^ len := by
  apply Nat.eq_of_testBit_eq
  intro j
  rw [testBit_field, Nat.testBit_mod_two_pow, bit_setField _ _ _ _ _ h]
  by_cases hj : j < len
  · rw [if_pos (by omega)]; simp
  · simp [hj]

theorem field_setField_out (w : Word) (lo len n lo' len' : Nat) (h : lo + len ≤ 64) (hd : lo' + len' ≤ lo ∨ lo + len ≤ lo') :
    field (setField w lo len n) lo' len' = field w lo' len' :=
  field_congr _ _ fun j hj => bit_setField_out _ _ _ _ _ h (by omega)

theorem field_setBit_out (w : Word) (i lo len : Nat) (b : Bool) (hd : i < lo ∨ lo + len ≤ i) :
    field (setBit w i b) lo len = field w lo len :=
  field_congr _ _ fun j hj => bit_setBit_ne _ _ _ _ (by omega)

theorem field_lt (w : Word) (lo len : Nat) : field w lo len < 2 ^ len := BitVec.isLt _

@[simp] theorem fit_x64 (w : Word) : fit .x64 w = w := rfl

theorem bit_fit (x : Xlen) (w : Word) (i : Nat) : bit (fit x w) i = (bit w i && decide (i < x.bits)) := by
  cases x
  · have : (0xFFFFFFFF : Word) = BitVec.ofNat 64 (2 ^ 32 - 1) := rfl
    simp only [fit, this, bit_and, Xlen.bits]
    congr 1
    simp only [bit, BitVec.getLsbD_ofNat, Nat.testBit_two_pow_sub_one]
    by_cases h : i < 32 <;> simp [h] <;> omega
  · by_cases h : i < 64
    · simp [fit, Xlen.bits, h]
    · simp [fit, Xlen.bits, h, bit, BitVec.getLsbD_of_ge _ _ (Nat.le_of_not_lt h)]

@[simp] theorem fit_fit (x : Xlen) (w : Word) : fit x (fit x w) = fit x w :=
  word_eq_of_bits fun i _ => by simp [bit_fit]

end Sys2Proof.Machine
end

