-- ==== Sys2Proof/Laws/State.lean ====
section
/-! SUPPORT. What each named update of the state leaves in each field: one lemma per field per update, so that no proof
unfolds a record update. -/

namespace Sys2Proof.Machine

open Sys2Proof

/-! ## `State.setX` -/

@[simp] theorem State.setX_cfg (s : State) (r : Reg) (w : Word) : (s.setX r w).cfg = s.cfg := rfl
@[simp] theorem State.setX_regs (s : State) (r : Reg) (w : Word) : (s.setX r w).regs = if r = 0 then s.regs else s.regs.set r.toNat (s.regImage w) := rfl
@[simp] theorem State.setX_pc (s : State) (r : Reg) (w : Word) : (s.setX r w).pc = s.pc := rfl
@[simp] theorem State.setX_priv (s : State) (r : Reg) (w : Word) : (s.setX r w).priv = s.priv := rfl
@[simp] theorem State.setX_v (s : State) (r : Reg) (w : Word) : (s.setX r w).v = s.v := rfl
@[simp] theorem State.setX_hyp (s : State) (r : Reg) (w : Word) : (s.setX r w).hyp = s.hyp := rfl
@[simp] theorem State.setX_vs (s : State) (r : Reg) (w : Word) : (s.setX r w).vs = s.vs := rfl
@[simp] theorem State.setX_sup (s : State) (r : Reg) (w : Word) : (s.setX r w).sup = s.sup := rfl
@[simp] theorem State.setX_mach (s : State) (r : Reg) (w : Word) : (s.setX r w).mach = s.mach := rfl
@[simp] theorem State.setX_counters (s : State) (r : Reg) (w : Word) : (s.setX r w).counters = s.counters := rfl
@[simp] theorem State.setX_mem (s : State) (r : Reg) (w : Word) : (s.setX r w).mem = s.mem := rfl
@[simp] theorem State.setX_storedTo (s : State) (r : Reg) (w : Word) : (s.setX r w).storedTo = s.storedTo := rfl
@[simp] theorem State.setX_tlb (s : State) (r : Reg) (w : Word) : (s.setX r w).tlb = s.tlb := rfl
@[simp] theorem State.setX_plat (s : State) (r : Reg) (w : Word) : (s.setX r w).plat = s.plat := rfl
@[simp] theorem State.setX_tick (s : State) (r : Reg) (w : Word) : (s.setX r w).tick = s.tick := rfl

/-! ## `State.advance` -/

@[simp] theorem State.advance_cfg (s : State) : (s.advance).cfg = s.cfg := rfl
@[simp] theorem State.advance_regs (s : State) : (s.advance).regs = s.regs := rfl
@[simp] theorem State.advance_pc (s : State) : (s.advance).pc = fit s.xlen (s.pc + 4) := rfl
@[simp] theorem State.advance_priv (s : State) : (s.advance).priv = s.priv := rfl
@[simp] theorem State.advance_v (s : State) : (s.advance).v = s.v := rfl
@[simp] theorem State.advance_hyp (s : State) : (s.advance).hyp = s.hyp := rfl
@[simp] theorem State.advance_vs (s : State) : (s.advance).vs = s.vs := rfl
@[simp] theorem State.advance_sup (s : State) : (s.advance).sup = s.sup := rfl
@[simp] theorem State.advance_mach (s : State) : (s.advance).mach = s.mach := rfl
@[simp] theorem State.advance_counters (s : State) : (s.advance).counters = s.counters := rfl
@[simp] theorem State.advance_mem (s : State) : (s.advance).mem = s.mem := rfl
@[simp] theorem State.advance_storedTo (s : State) : (s.advance).storedTo = s.storedTo := rfl
@[simp] theorem State.advance_tlb (s : State) : (s.advance).tlb = s.tlb := rfl
@[simp] theorem State.advance_plat (s : State) : (s.advance).plat = s.plat := rfl
@[simp] theorem State.advance_tick (s : State) : (s.advance).tick = s.tick := rfl

/-! ## `State.setPc` -/

@[simp] theorem State.setPc_cfg (s : State) (t : Word) : (s.setPc t).cfg = s.cfg := rfl
@[simp] theorem State.setPc_regs (s : State) (t : Word) : (s.setPc t).regs = s.regs := rfl
@[simp] theorem State.setPc_pc (s : State) (t : Word) : (s.setPc t).pc = t := rfl
@[simp] theorem State.setPc_priv (s : State) (t : Word) : (s.setPc t).priv = s.priv := rfl
@[simp] theorem State.setPc_v (s : State) (t : Word) : (s.setPc t).v = s.v := rfl
@[simp] theorem State.setPc_hyp (s : State) (t : Word) : (s.setPc t).hyp = s.hyp := rfl
@[simp] theorem State.setPc_vs (s : State) (t : Word) : (s.setPc t).vs = s.vs := rfl
@[simp] theorem State.setPc_sup (s : State) (t : Word) : (s.setPc t).sup = s.sup := rfl
@[simp] theorem State.setPc_mach (s : State) (t : Word) : (s.setPc t).mach = s.mach := rfl
@[simp] theorem State.setPc_counters (s : State) (t : Word) : (s.setPc t).counters = s.counters := rfl
@[simp] theorem State.setPc_mem (s : State) (t : Word) : (s.setPc t).mem = s.mem := rfl
@[simp] theorem State.setPc_storedTo (s : State) (t : Word) : (s.setPc t).storedTo = s.storedTo := rfl
@[simp] theorem State.setPc_tlb (s : State) (t : Word) : (s.setPc t).tlb = s.tlb := rfl
@[simp] theorem State.setPc_plat (s : State) (t : Word) : (s.setPc t).plat = s.plat := rfl
@[simp] theorem State.setPc_tick (s : State) (t : Word) : (s.setPc t).tick = s.tick := rfl

/-! ## `State.setHyp` -/

@[simp] theorem State.setHyp_cfg (s : State) (h : HypCsrs) : (s.setHyp h).cfg = s.cfg := rfl
@[simp] theorem State.setHyp_regs (s : State) (h : HypCsrs) : (s.setHyp h).regs = s.regs := rfl
@[simp] theorem State.setHyp_pc (s : State) (h : HypCsrs) : (s.setHyp h).pc = s.pc := rfl
@[simp] theorem State.setHyp_priv (s : State) (h : HypCsrs) : (s.setHyp h).priv = s.priv := rfl
@[simp] theorem State.setHyp_v (s : State) (h : HypCsrs) : (s.setHyp h).v = s.v := rfl
@[simp] theorem State.setHyp_hyp (s : State) (h : HypCsrs) : (s.setHyp h).hyp = h := rfl
@[simp] theorem State.setHyp_vs (s : State) (h : HypCsrs) : (s.setHyp h).vs = s.vs := rfl
@[simp] theorem State.setHyp_sup (s : State) (h : HypCsrs) : (s.setHyp h).sup = s.sup := rfl
@[simp] theorem State.setHyp_mach (s : State) (h : HypCsrs) : (s.setHyp h).mach = s.mach := rfl
@[simp] theorem State.setHyp_counters (s : State) (h : HypCsrs) : (s.setHyp h).counters = s.counters := rfl
@[simp] theorem State.setHyp_mem (s : State) (h : HypCsrs) : (s.setHyp h).mem = s.mem := rfl
@[simp] theorem State.setHyp_storedTo (s : State) (h : HypCsrs) : (s.setHyp h).storedTo = s.storedTo := rfl
@[simp] theorem State.setHyp_tlb (s : State) (h : HypCsrs) : (s.setHyp h).tlb = s.tlb := rfl
@[simp] theorem State.setHyp_plat (s : State) (h : HypCsrs) : (s.setHyp h).plat = s.plat := rfl
@[simp] theorem State.setHyp_tick (s : State) (h : HypCsrs) : (s.setHyp h).tick = s.tick := rfl

/-! ## `State.setVs` -/

@[simp] theorem State.setVs_cfg (s : State) (c : VsCsrs) : (s.setVs c).cfg = s.cfg := rfl
@[simp] theorem State.setVs_regs (s : State) (c : VsCsrs) : (s.setVs c).regs = s.regs := rfl
@[simp] theorem State.setVs_pc (s : State) (c : VsCsrs) : (s.setVs c).pc = s.pc := rfl
@[simp] theorem State.setVs_priv (s : State) (c : VsCsrs) : (s.setVs c).priv = s.priv := rfl
@[simp] theorem State.setVs_v (s : State) (c : VsCsrs) : (s.setVs c).v = s.v := rfl
@[simp] theorem State.setVs_hyp (s : State) (c : VsCsrs) : (s.setVs c).hyp = s.hyp := rfl
@[simp] theorem State.setVs_vs (s : State) (c : VsCsrs) : (s.setVs c).vs = c := rfl
@[simp] theorem State.setVs_sup (s : State) (c : VsCsrs) : (s.setVs c).sup = s.sup := rfl
@[simp] theorem State.setVs_mach (s : State) (c : VsCsrs) : (s.setVs c).mach = s.mach := rfl
@[simp] theorem State.setVs_counters (s : State) (c : VsCsrs) : (s.setVs c).counters = s.counters := rfl
@[simp] theorem State.setVs_mem (s : State) (c : VsCsrs) : (s.setVs c).mem = s.mem := rfl
@[simp] theorem State.setVs_storedTo (s : State) (c : VsCsrs) : (s.setVs c).storedTo = s.storedTo := rfl
@[simp] theorem State.setVs_tlb (s : State) (c : VsCsrs) : (s.setVs c).tlb = s.tlb := rfl
@[simp] theorem State.setVs_plat (s : State) (c : VsCsrs) : (s.setVs c).plat = s.plat := rfl
@[simp] theorem State.setVs_tick (s : State) (c : VsCsrs) : (s.setVs c).tick = s.tick := rfl

/-! ## `State.setSup` -/

@[simp] theorem State.setSup_cfg (s : State) (c : SupCsrs) : (s.setSup c).cfg = s.cfg := rfl
@[simp] theorem State.setSup_regs (s : State) (c : SupCsrs) : (s.setSup c).regs = s.regs := rfl
@[simp] theorem State.setSup_pc (s : State) (c : SupCsrs) : (s.setSup c).pc = s.pc := rfl
@[simp] theorem State.setSup_priv (s : State) (c : SupCsrs) : (s.setSup c).priv = s.priv := rfl
@[simp] theorem State.setSup_v (s : State) (c : SupCsrs) : (s.setSup c).v = s.v := rfl
@[simp] theorem State.setSup_hyp (s : State) (c : SupCsrs) : (s.setSup c).hyp = s.hyp := rfl
@[simp] theorem State.setSup_vs (s : State) (c : SupCsrs) : (s.setSup c).vs = s.vs := rfl
@[simp] theorem State.setSup_sup (s : State) (c : SupCsrs) : (s.setSup c).sup = c := rfl
@[simp] theorem State.setSup_mach (s : State) (c : SupCsrs) : (s.setSup c).mach = s.mach := rfl
@[simp] theorem State.setSup_counters (s : State) (c : SupCsrs) : (s.setSup c).counters = s.counters := rfl
@[simp] theorem State.setSup_mem (s : State) (c : SupCsrs) : (s.setSup c).mem = s.mem := rfl
@[simp] theorem State.setSup_storedTo (s : State) (c : SupCsrs) : (s.setSup c).storedTo = s.storedTo := rfl
@[simp] theorem State.setSup_tlb (s : State) (c : SupCsrs) : (s.setSup c).tlb = s.tlb := rfl
@[simp] theorem State.setSup_plat (s : State) (c : SupCsrs) : (s.setSup c).plat = s.plat := rfl
@[simp] theorem State.setSup_tick (s : State) (c : SupCsrs) : (s.setSup c).tick = s.tick := rfl

/-! ## `State.setMach` -/

@[simp] theorem State.setMach_cfg (s : State) (m : MachCsrs) : (s.setMach m).cfg = s.cfg := rfl
@[simp] theorem State.setMach_regs (s : State) (m : MachCsrs) : (s.setMach m).regs = s.regs := rfl
@[simp] theorem State.setMach_pc (s : State) (m : MachCsrs) : (s.setMach m).pc = s.pc := rfl
@[simp] theorem State.setMach_priv (s : State) (m : MachCsrs) : (s.setMach m).priv = s.priv := rfl
@[simp] theorem State.setMach_v (s : State) (m : MachCsrs) : (s.setMach m).v = s.v := rfl
@[simp] theorem State.setMach_hyp (s : State) (m : MachCsrs) : (s.setMach m).hyp = s.hyp := rfl
@[simp] theorem State.setMach_vs (s : State) (m : MachCsrs) : (s.setMach m).vs = s.vs := rfl
@[simp] theorem State.setMach_sup (s : State) (m : MachCsrs) : (s.setMach m).sup = s.sup := rfl
@[simp] theorem State.setMach_mach (s : State) (m : MachCsrs) : (s.setMach m).mach = m := rfl
@[simp] theorem State.setMach_counters (s : State) (m : MachCsrs) : (s.setMach m).counters = s.counters := rfl
@[simp] theorem State.setMach_mem (s : State) (m : MachCsrs) : (s.setMach m).mem = s.mem := rfl
@[simp] theorem State.setMach_storedTo (s : State) (m : MachCsrs) : (s.setMach m).storedTo = s.storedTo := rfl
@[simp] theorem State.setMach_tlb (s : State) (m : MachCsrs) : (s.setMach m).tlb = s.tlb := rfl
@[simp] theorem State.setMach_plat (s : State) (m : MachCsrs) : (s.setMach m).plat = s.plat := rfl
@[simp] theorem State.setMach_tick (s : State) (m : MachCsrs) : (s.setMach m).tick = s.tick := rfl

/-! ## `State.setTlb` -/

@[simp] theorem State.setTlb_cfg (s : State) (t : List TlbEntry) : (s.setTlb t).cfg = s.cfg := rfl
@[simp] theorem State.setTlb_regs (s : State) (t : List TlbEntry) : (s.setTlb t).regs = s.regs := rfl
@[simp] theorem State.setTlb_pc (s : State) (t : List TlbEntry) : (s.setTlb t).pc = s.pc := rfl
@[simp] theorem State.setTlb_priv (s : State) (t : List TlbEntry) : (s.setTlb t).priv = s.priv := rfl
@[simp] theorem State.setTlb_v (s : State) (t : List TlbEntry) : (s.setTlb t).v = s.v := rfl
@[simp] theorem State.setTlb_hyp (s : State) (t : List TlbEntry) : (s.setTlb t).hyp = s.hyp := rfl
@[simp] theorem State.setTlb_vs (s : State) (t : List TlbEntry) : (s.setTlb t).vs = s.vs := rfl
@[simp] theorem State.setTlb_sup (s : State) (t : List TlbEntry) : (s.setTlb t).sup = s.sup := rfl
@[simp] theorem State.setTlb_mach (s : State) (t : List TlbEntry) : (s.setTlb t).mach = s.mach := rfl
@[simp] theorem State.setTlb_counters (s : State) (t : List TlbEntry) : (s.setTlb t).counters = s.counters := rfl
@[simp] theorem State.setTlb_mem (s : State) (t : List TlbEntry) : (s.setTlb t).mem = s.mem := rfl
@[simp] theorem State.setTlb_storedTo (s : State) (t : List TlbEntry) : (s.setTlb t).storedTo = s.storedTo := rfl
@[simp] theorem State.setTlb_tlb (s : State) (t : List TlbEntry) : (s.setTlb t).tlb = t := rfl
@[simp] theorem State.setTlb_plat (s : State) (t : List TlbEntry) : (s.setTlb t).plat = s.plat := rfl
@[simp] theorem State.setTlb_tick (s : State) (t : List TlbEntry) : (s.setTlb t).tick = s.tick := rfl

/-! ## `State.flush` -/

@[simp] theorem State.flush_cfg (s : State) (f : TlbEntry → Bool) : (s.flush f).cfg = s.cfg := rfl
@[simp] theorem State.flush_regs (s : State) (f : TlbEntry → Bool) : (s.flush f).regs = s.regs := rfl
@[simp] theorem State.flush_pc (s : State) (f : TlbEntry → Bool) : (s.flush f).pc = s.pc := rfl
@[simp] theorem State.flush_priv (s : State) (f : TlbEntry → Bool) : (s.flush f).priv = s.priv := rfl
@[simp] theorem State.flush_v (s : State) (f : TlbEntry → Bool) : (s.flush f).v = s.v := rfl
@[simp] theorem State.flush_hyp (s : State) (f : TlbEntry → Bool) : (s.flush f).hyp = s.hyp := rfl
@[simp] theorem State.flush_vs (s : State) (f : TlbEntry → Bool) : (s.flush f).vs = s.vs := rfl
@[simp] theorem State.flush_sup (s : State) (f : TlbEntry → Bool) : (s.flush f).sup = s.sup := rfl
@[simp] theorem State.flush_mach (s : State) (f : TlbEntry → Bool) : (s.flush f).mach = s.mach := rfl
@[simp] theorem State.flush_counters (s : State) (f : TlbEntry → Bool) : (s.flush f).counters = s.counters := rfl
@[simp] theorem State.flush_mem (s : State) (f : TlbEntry → Bool) : (s.flush f).mem = s.mem := rfl
@[simp] theorem State.flush_storedTo (s : State) (f : TlbEntry → Bool) : (s.flush f).storedTo = s.storedTo := rfl
@[simp] theorem State.flush_tlb (s : State) (f : TlbEntry → Bool) : (s.flush f).tlb = s.tlb.filter fun e => !f e := rfl
@[simp] theorem State.flush_plat (s : State) (f : TlbEntry → Bool) : (s.flush f).plat = s.plat := rfl
@[simp] theorem State.flush_tick (s : State) (f : TlbEntry → Bool) : (s.flush f).tick = s.tick := rfl

/-! ## `State.memWrite` -/

@[simp] theorem State.memWrite_cfg (s : State) (c : List (Nat × Byte)) : (s.memWrite c).cfg = s.cfg := rfl
@[simp] theorem State.memWrite_regs (s : State) (c : List (Nat × Byte)) : (s.memWrite c).regs = s.regs := rfl
@[simp] theorem State.memWrite_pc (s : State) (c : List (Nat × Byte)) : (s.memWrite c).pc = s.pc := rfl
@[simp] theorem State.memWrite_priv (s : State) (c : List (Nat × Byte)) : (s.memWrite c).priv = s.priv := rfl
@[simp] theorem State.memWrite_v (s : State) (c : List (Nat × Byte)) : (s.memWrite c).v = s.v := rfl
@[simp] theorem State.memWrite_hyp (s : State) (c : List (Nat × Byte)) : (s.memWrite c).hyp = s.hyp := rfl
@[simp] theorem State.memWrite_vs (s : State) (c : List (Nat × Byte)) : (s.memWrite c).vs = s.vs := rfl
@[simp] theorem State.memWrite_sup (s : State) (c : List (Nat × Byte)) : (s.memWrite c).sup = s.sup := rfl
@[simp] theorem State.memWrite_mach (s : State) (c : List (Nat × Byte)) : (s.memWrite c).mach = s.mach := rfl
@[simp] theorem State.memWrite_counters (s : State) (c : List (Nat × Byte)) : (s.memWrite c).counters = s.counters := rfl
@[simp] theorem State.memWrite_mem (s : State) (c : List (Nat × Byte)) : (s.memWrite c).mem = Memory.writeBytes s.mem c := rfl
@[simp] theorem State.memWrite_storedTo (s : State) (c : List (Nat × Byte)) : (s.memWrite c).storedTo = noteStores s.storedTo (c.map Prod.fst) := rfl
@[simp] theorem State.memWrite_tlb (s : State) (c : List (Nat × Byte)) : (s.memWrite c).tlb = s.tlb := rfl
@[simp] theorem State.memWrite_plat (s : State) (c : List (Nat × Byte)) : (s.memWrite c).plat = s.plat := rfl
@[simp] theorem State.memWrite_tick (s : State) (c : List (Nat × Byte)) : (s.memWrite c).tick = s.tick := rfl

/-! ## `State.enterGuest` -/

@[simp] theorem State.enterGuest_cfg (s : State) (t : Trap) (epc : Word) : (s.enterGuest t epc).cfg = s.cfg := rfl
@[simp] theorem State.enterGuest_regs (s : State) (t : Trap) (epc : Word) : (s.enterGuest t epc).regs = s.regs := rfl
@[simp] theorem State.enterGuest_pc (s : State) (t : Trap) (epc : Word) : (s.enterGuest t epc).pc = trapVector s.vsxlen s.vs.vstvec t.isInt (guestCode t.isInt t.code) := rfl
@[simp] theorem State.enterGuest_priv (s : State) (t : Trap) (epc : Word) : (s.enterGuest t epc).priv = Priv.s := rfl
@[simp] theorem State.enterGuest_v (s : State) (t : Trap) (epc : Word) : (s.enterGuest t epc).v = s.v := rfl
@[simp] theorem State.enterGuest_hyp (s : State) (t : Trap) (epc : Word) : (s.enterGuest t epc).hyp = s.hyp := rfl
@[simp] theorem State.enterGuest_sup (s : State) (t : Trap) (epc : Word) : (s.enterGuest t epc).sup = s.sup := rfl
@[simp] theorem State.enterGuest_mach (s : State) (t : Trap) (epc : Word) : (s.enterGuest t epc).mach = s.mach := rfl
@[simp] theorem State.enterGuest_counters (s : State) (t : Trap) (epc : Word) : (s.enterGuest t epc).counters = s.counters := rfl
@[simp] theorem State.enterGuest_mem (s : State) (t : Trap) (epc : Word) : (s.enterGuest t epc).mem = s.mem := rfl
@[simp] theorem State.enterGuest_storedTo (s : State) (t : Trap) (epc : Word) : (s.enterGuest t epc).storedTo = s.storedTo := rfl
@[simp] theorem State.enterGuest_tlb (s : State) (t : Trap) (epc : Word) : (s.enterGuest t epc).tlb = s.tlb := rfl
@[simp] theorem State.enterGuest_plat (s : State) (t : Trap) (epc : Word) : (s.enterGuest t epc).plat = s.plat := rfl
@[simp] theorem State.enterGuest_tick (s : State) (t : Trap) (epc : Word) : (s.enterGuest t epc).tick = s.tick := rfl

/-! ## `State.enterHyper` -/

@[simp] theorem State.enterHyper_cfg (s : State) (t : Trap) (epc : Word) : (s.enterHyper t epc).cfg = s.cfg := rfl
@[simp] theorem State.enterHyper_regs (s : State) (t : Trap) (epc : Word) : (s.enterHyper t epc).regs = s.regs := rfl
@[simp] theorem State.enterHyper_pc (s : State) (t : Trap) (epc : Word) : (s.enterHyper t epc).pc = trapVector s.cfg.hsxlen s.sup.stvec t.isInt t.code := rfl
@[simp] theorem State.enterHyper_priv (s : State) (t : Trap) (epc : Word) : (s.enterHyper t epc).priv = Priv.s := rfl
@[simp] theorem State.enterHyper_v (s : State) (t : Trap) (epc : Word) : (s.enterHyper t epc).v = false := rfl
@[simp] theorem State.enterHyper_vs (s : State) (t : Trap) (epc : Word) : (s.enterHyper t epc).vs = s.vs := rfl
@[simp] theorem State.enterHyper_mach (s : State) (t : Trap) (epc : Word) : (s.enterHyper t epc).mach = { s.mach with mstatus := enterStatus s.mach.mstatus (s.priv == .s) } := rfl
@[simp] theorem State.enterHyper_counters (s : State) (t : Trap) (epc : Word) : (s.enterHyper t epc).counters = s.counters := rfl
@[simp] theorem State.enterHyper_mem (s : State) (t : Trap) (epc : Word) : (s.enterHyper t epc).mem = s.mem := rfl
@[simp] theorem State.enterHyper_storedTo (s : State) (t : Trap) (epc : Word) : (s.enterHyper t epc).storedTo = s.storedTo := rfl
@[simp] theorem State.enterHyper_tlb (s : State) (t : Trap) (epc : Word) : (s.enterHyper t epc).tlb = s.tlb := rfl
@[simp] theorem State.enterHyper_plat (s : State) (t : Trap) (epc : Word) : (s.enterHyper t epc).plat = s.plat := rfl
@[simp] theorem State.enterHyper_tick (s : State) (t : Trap) (epc : Word) : (s.enterHyper t epc).tick = s.tick := rfl

/-! ## `State.enterMachine` -/

@[simp] theorem State.enterMachine_cfg (s : State) (t : Trap) (epc : Word) : (s.enterMachine t epc).cfg = s.cfg := rfl
@[simp] theorem State.enterMachine_regs (s : State) (t : Trap) (epc : Word) : (s.enterMachine t epc).regs = s.regs := rfl
@[simp] theorem State.enterMachine_pc (s : State) (t : Trap) (epc : Word) : (s.enterMachine t epc).pc = trapVector s.cfg.hsxlen s.mach.mtvec t.isInt t.code := rfl
@[simp] theorem State.enterMachine_priv (s : State) (t : Trap) (epc : Word) : (s.enterMachine t epc).priv = Priv.m := rfl
@[simp] theorem State.enterMachine_v (s : State) (t : Trap) (epc : Word) : (s.enterMachine t epc).v = false := rfl
@[simp] theorem State.enterMachine_hyp (s : State) (t : Trap) (epc : Word) : (s.enterMachine t epc).hyp = s.hyp := rfl
@[simp] theorem State.enterMachine_vs (s : State) (t : Trap) (epc : Word) : (s.enterMachine t epc).vs = s.vs := rfl
@[simp] theorem State.enterMachine_sup (s : State) (t : Trap) (epc : Word) : (s.enterMachine t epc).sup = s.sup := rfl
@[simp] theorem State.enterMachine_counters (s : State) (t : Trap) (epc : Word) : (s.enterMachine t epc).counters = s.counters := rfl
@[simp] theorem State.enterMachine_mem (s : State) (t : Trap) (epc : Word) : (s.enterMachine t epc).mem = s.mem := rfl
@[simp] theorem State.enterMachine_storedTo (s : State) (t : Trap) (epc : Word) : (s.enterMachine t epc).storedTo = s.storedTo := rfl
@[simp] theorem State.enterMachine_tlb (s : State) (t : Trap) (epc : Word) : (s.enterMachine t epc).tlb = s.tlb := rfl
@[simp] theorem State.enterMachine_plat (s : State) (t : Trap) (epc : Word) : (s.enterMachine t epc).plat = s.plat := rfl
@[simp] theorem State.enterMachine_tick (s : State) (t : Trap) (epc : Word) : (s.enterMachine t epc).tick = s.tick := rfl

/-! ## `State.returnHyper` -/

@[simp] theorem State.returnHyper_cfg (s : State) : (s.returnHyper).cfg = s.cfg := rfl
@[simp] theorem State.returnHyper_regs (s : State) : (s.returnHyper).regs = s.regs := rfl
@[simp] theorem State.returnHyper_pc (s : State) : (s.returnHyper).pc = fit (s.xlenOf s.spv (privOfBit s.spp)) s.sup.sepc := rfl
@[simp] theorem State.returnHyper_priv (s : State) : (s.returnHyper).priv = privOfBit s.spp := rfl
@[simp] theorem State.returnHyper_v (s : State) : (s.returnHyper).v = s.spv := rfl
@[simp] theorem State.returnHyper_hyp (s : State) : (s.returnHyper).hyp = { s.hyp with hstatus := setBit s.hyp.hstatus 7 false } := rfl
@[simp] theorem State.returnHyper_vs (s : State) : (s.returnHyper).vs = s.vs := rfl
@[simp] theorem State.returnHyper_sup (s : State) : (s.returnHyper).sup = s.sup := rfl
@[simp] theorem State.returnHyper_counters (s : State) : (s.returnHyper).counters = s.counters := rfl
@[simp] theorem State.returnHyper_mem (s : State) : (s.returnHyper).mem = s.mem := rfl
@[simp] theorem State.returnHyper_storedTo (s : State) : (s.returnHyper).storedTo = s.storedTo := rfl
@[simp] theorem State.returnHyper_tlb (s : State) : (s.returnHyper).tlb = s.tlb := rfl
@[simp] theorem State.returnHyper_plat (s : State) : (s.returnHyper).plat = s.plat := rfl
@[simp] theorem State.returnHyper_tick (s : State) : (s.returnHyper).tick = s.tick := rfl

/-! ## `State.returnGuest` -/

@[simp] theorem State.returnGuest_cfg (s : State) : (s.returnGuest).cfg = s.cfg := rfl
@[simp] theorem State.returnGuest_regs (s : State) : (s.returnGuest).regs = s.regs := rfl
@[simp] theorem State.returnGuest_pc (s : State) : (s.returnGuest).pc = fit (s.xlenOf true (privOfBit s.vsSpp)) s.vs.vsepc := rfl
@[simp] theorem State.returnGuest_priv (s : State) : (s.returnGuest).priv = privOfBit s.vsSpp := rfl
@[simp] theorem State.returnGuest_v (s : State) : (s.returnGuest).v = s.v := rfl
@[simp] theorem State.returnGuest_hyp (s : State) : (s.returnGuest).hyp = s.hyp := rfl
@[simp] theorem State.returnGuest_vs (s : State) : (s.returnGuest).vs = { s.vs with vsstatus := leaveStatus s.vs.vsstatus } := rfl
@[simp] theorem State.returnGuest_sup (s : State) : (s.returnGuest).sup = s.sup := rfl
@[simp] theorem State.returnGuest_mach (s : State) : (s.returnGuest).mach = s.mach := rfl
@[simp] theorem State.returnGuest_counters (s : State) : (s.returnGuest).counters = s.counters := rfl
@[simp] theorem State.returnGuest_mem (s : State) : (s.returnGuest).mem = s.mem := rfl
@[simp] theorem State.returnGuest_storedTo (s : State) : (s.returnGuest).storedTo = s.storedTo := rfl
@[simp] theorem State.returnGuest_tlb (s : State) : (s.returnGuest).tlb = s.tlb := rfl
@[simp] theorem State.returnGuest_plat (s : State) : (s.returnGuest).plat = s.plat := rfl
@[simp] theorem State.returnGuest_tick (s : State) : (s.returnGuest).tick = s.tick := rfl

/-! ## `State.returnMachine` -/

@[simp] theorem State.returnMachine_cfg (s : State) : (s.returnMachine).cfg = s.cfg := rfl
@[simp] theorem State.returnMachine_regs (s : State) : (s.returnMachine).regs = s.regs := rfl
@[simp] theorem State.returnMachine_priv (s : State) : (s.returnMachine).priv = privOfCode s.mstatusMpp := rfl
@[simp] theorem State.returnMachine_v (s : State) : (s.returnMachine).v = (privOfCode s.mstatusMpp != .m && s.mstatusMpv) := rfl
@[simp] theorem State.returnMachine_hyp (s : State) : (s.returnMachine).hyp = s.hyp := rfl
@[simp] theorem State.returnMachine_vs (s : State) : (s.returnMachine).vs = s.vs := rfl
@[simp] theorem State.returnMachine_sup (s : State) : (s.returnMachine).sup = s.sup := rfl
@[simp] theorem State.returnMachine_counters (s : State) : (s.returnMachine).counters = s.counters := rfl
@[simp] theorem State.returnMachine_mem (s : State) : (s.returnMachine).mem = s.mem := rfl
@[simp] theorem State.returnMachine_storedTo (s : State) : (s.returnMachine).storedTo = s.storedTo := rfl
@[simp] theorem State.returnMachine_tlb (s : State) : (s.returnMachine).tlb = s.tlb := rfl
@[simp] theorem State.returnMachine_plat (s : State) : (s.returnMachine).plat = s.plat := rfl
@[simp] theorem State.returnMachine_tick (s : State) : (s.returnMachine).tick = s.tick := rfl

/-! ## `State.floatDirty` -/

@[simp] theorem State.floatDirty_cfg (s : State) : (s.floatDirty).cfg = s.cfg := rfl
@[simp] theorem State.floatDirty_regs (s : State) : (s.floatDirty).regs = s.regs := rfl
@[simp] theorem State.floatDirty_pc (s : State) : (s.floatDirty).pc = s.pc := rfl
@[simp] theorem State.floatDirty_priv (s : State) : (s.floatDirty).priv = s.priv := rfl
@[simp] theorem State.floatDirty_v (s : State) : (s.floatDirty).v = s.v := rfl
@[simp] theorem State.floatDirty_hyp (s : State) : (s.floatDirty).hyp = s.hyp := rfl
@[simp] theorem State.floatDirty_vs (s : State) : (s.floatDirty).vs = if s.v then { s.vs with vsstatus := setField s.vs.vsstatus 13 2 3 } else s.vs := rfl
@[simp] theorem State.floatDirty_sup (s : State) : (s.floatDirty).sup = s.sup := rfl
@[simp] theorem State.floatDirty_mach (s : State) : (s.floatDirty).mach = { s.mach with mstatus := setField s.mach.mstatus 13 2 3 } := rfl
@[simp] theorem State.floatDirty_counters (s : State) : (s.floatDirty).counters = s.counters := rfl
@[simp] theorem State.floatDirty_mem (s : State) : (s.floatDirty).mem = s.mem := rfl
@[simp] theorem State.floatDirty_storedTo (s : State) : (s.floatDirty).storedTo = s.storedTo := rfl
@[simp] theorem State.floatDirty_tlb (s : State) : (s.floatDirty).tlb = s.tlb := rfl
@[simp] theorem State.floatDirty_plat (s : State) : (s.floatDirty).plat = s.plat := rfl
@[simp] theorem State.floatDirty_tick (s : State) : (s.floatDirty).tick = s.tick := rfl

/-! ## `State.platformStep` -/

@[simp] theorem State.platformStep_cfg (s : State) : (s.platformStep).cfg = s.cfg := rfl
@[simp] theorem State.platformStep_regs (s : State) : (s.platformStep).regs = s.regs := rfl
@[simp] theorem State.platformStep_pc (s : State) : (s.platformStep).pc = s.pc := rfl
@[simp] theorem State.platformStep_priv (s : State) : (s.platformStep).priv = s.priv := rfl
@[simp] theorem State.platformStep_v (s : State) : (s.platformStep).v = s.v := rfl
@[simp] theorem State.platformStep_hyp (s : State) : (s.platformStep).hyp = s.hyp := rfl
@[simp] theorem State.platformStep_vs (s : State) : (s.platformStep).vs = s.vs := rfl
@[simp] theorem State.platformStep_sup (s : State) : (s.platformStep).sup = s.sup := rfl
@[simp] theorem State.platformStep_mach (s : State) : (s.platformStep).mach = s.mach := rfl
@[simp] theorem State.platformStep_counters (s : State) : (s.platformStep).counters = countersAfter s.counters s.tick := rfl
@[simp] theorem State.platformStep_mem (s : State) : (s.platformStep).mem = s.mem := rfl
@[simp] theorem State.platformStep_storedTo (s : State) : (s.platformStep).storedTo = s.storedTo := rfl
@[simp] theorem State.platformStep_tlb (s : State) : (s.platformStep).tlb = s.tlb := rfl
@[simp] theorem State.platformStep_plat (s : State) : (s.platformStep).plat = Config.platformAt s.tick := rfl
@[simp] theorem State.platformStep_tick (s : State) : (s.platformStep).tick = s.tick + 1 := rfl

/-! ## `State.enter`, whatever the target -/

@[simp] theorem State.enter_cfg (s : State) (g : Target) (t : Trap) (epc : Word) : (s.enter g t epc).cfg = s.cfg := by
  cases g <;> rfl

@[simp] theorem State.raise_cfg (s : State) (t : Trap) : (s.raise t).cfg = s.cfg := State.enter_cfg s _ t _

@[simp] theorem State.raiseBarred_cfg (s : State) (c : Nat) (w : InstrWord) : (s.raiseBarred c w).cfg = s.cfg := State.raise_cfg s _

@[simp] theorem State.takeInterrupt_cfg (s : State) (g : Target) (c : Nat) : (s.takeInterrupt g c).cfg = s.cfg := State.enter_cfg s g _ _

@[simp] theorem State.enter_regs (s : State) (g : Target) (t : Trap) (epc : Word) : (s.enter g t epc).regs = s.regs := by
  cases g <;> rfl

@[simp] theorem State.raise_regs (s : State) (t : Trap) : (s.raise t).regs = s.regs := State.enter_regs s _ t _

@[simp] theorem State.raiseBarred_regs (s : State) (c : Nat) (w : InstrWord) : (s.raiseBarred c w).regs = s.regs := State.raise_regs s _

@[simp] theorem State.takeInterrupt_regs (s : State) (g : Target) (c : Nat) : (s.takeInterrupt g c).regs = s.regs := State.enter_regs s g _ _

@[simp] theorem State.enter_counters (s : State) (g : Target) (t : Trap) (epc : Word) : (s.enter g t epc).counters = s.counters := by
  cases g <;> rfl

@[simp] theorem State.raise_counters (s : State) (t : Trap) : (s.raise t).counters = s.counters := State.enter_counters s _ t _

@[simp] theorem State.raiseBarred_counters (s : State) (c : Nat) (w : InstrWord) : (s.raiseBarred c w).counters = s.counters := State.raise_counters s _

@[simp] theorem State.takeInterrupt_counters (s : State) (g : Target) (c : Nat) : (s.takeInterrupt g c).counters = s.counters := State.enter_counters s g _ _

@[simp] theorem State.enter_mem (s : State) (g : Target) (t : Trap) (epc : Word) : (s.enter g t epc).mem = s.mem := by
  cases g <;> rfl

@[simp] theorem State.raise_mem (s : State) (t : Trap) : (s.raise t).mem = s.mem := State.enter_mem s _ t _

@[simp] theorem State.raiseBarred_mem (s : State) (c : Nat) (w : InstrWord) : (s.raiseBarred c w).mem = s.mem := State.raise_mem s _

@[simp] theorem State.takeInterrupt_mem (s : State) (g : Target) (c : Nat) : (s.takeInterrupt g c).mem = s.mem := State.enter_mem s g _ _

@[simp] theorem State.enter_storedTo (s : State) (g : Target) (t : Trap) (epc : Word) : (s.enter g t epc).storedTo = s.storedTo := by
  cases g <;> rfl

@[simp] theorem State.raise_storedTo (s : State) (t : Trap) : (s.raise t).storedTo = s.storedTo := State.enter_storedTo s _ t _

@[simp] theorem State.raiseBarred_storedTo (s : State) (c : Nat) (w : InstrWord) : (s.raiseBarred c w).storedTo = s.storedTo := State.raise_storedTo s _

@[simp] theorem State.takeInterrupt_storedTo (s : State) (g : Target) (c : Nat) : (s.takeInterrupt g c).storedTo = s.storedTo := State.enter_storedTo s g _ _

@[simp] theorem State.enter_tlb (s : State) (g : Target) (t : Trap) (epc : Word) : (s.enter g t epc).tlb = s.tlb := by
  cases g <;> rfl

@[simp] theorem State.raise_tlb (s : State) (t : Trap) : (s.raise t).tlb = s.tlb := State.enter_tlb s _ t _

@[simp] theorem State.raiseBarred_tlb (s : State) (c : Nat) (w : InstrWord) : (s.raiseBarred c w).tlb = s.tlb := State.raise_tlb s _

@[simp] theorem State.takeInterrupt_tlb (s : State) (g : Target) (c : Nat) : (s.takeInterrupt g c).tlb = s.tlb := State.enter_tlb s g _ _

@[simp] theorem State.enter_plat (s : State) (g : Target) (t : Trap) (epc : Word) : (s.enter g t epc).plat = s.plat := by
  cases g <;> rfl

@[simp] theorem State.raise_plat (s : State) (t : Trap) : (s.raise t).plat = s.plat := State.enter_plat s _ t _

@[simp] theorem State.raiseBarred_plat (s : State) (c : Nat) (w : InstrWord) : (s.raiseBarred c w).plat = s.plat := State.raise_plat s _

@[simp] theorem State.takeInterrupt_plat (s : State) (g : Target) (c : Nat) : (s.takeInterrupt g c).plat = s.plat := State.enter_plat s g _ _

@[simp] theorem State.enter_tick (s : State) (g : Target) (t : Trap) (epc : Word) : (s.enter g t epc).tick = s.tick := by
  cases g <;> rfl

@[simp] theorem State.raise_tick (s : State) (t : Trap) : (s.raise t).tick = s.tick := State.enter_tick s _ t _

@[simp] theorem State.raiseBarred_tick (s : State) (c : Nat) (w : InstrWord) : (s.raiseBarred c w).tick = s.tick := State.raise_tick s _

@[simp] theorem State.takeInterrupt_tick (s : State) (g : Target) (c : Nat) : (s.takeInterrupt g c).tick = s.tick := State.enter_tick s g _ _

end Sys2Proof.Machine
end

