-- ==== Sys2Proof/Laws/Csr.lean ====
section
/-! SUPPORT. What a CSR write and a CSR instruction can do. -/

namespace Sys2Proof.Machine

open Sys2Proof

/-! ## WARL legalization (00_scope.md R11) -/

/-- A legalized value is in the legal set. -/
theorem legalize_mem {legal : List Nat} (h : legal ≠ []) (written choice : Nat) :
    legalize legal written choice ∈ legal := by
  unfold legalize
  split
  · next hc => simpa using hc
  · have hl : choice % legal.length < legal.length := Nat.mod_lt _ (List.length_pos_iff.mpr h)
    rw [List.getD_eq_getElem?_getD, List.getElem?_eq_getElem hl]
    exact List.getElem_mem _

/-- A legal value is left as written. -/
theorem legalize_of_mem {legal : List Nat} {written : Nat} (choice : Nat) (h : written ∈ legal) :
    legalize legal written choice = written := by
  simp [legalize, h]

/-- A value legalized at a width is 0 or in the legal set, as wide as the register, and the written one where that is legal. -/
theorem legalizeIn_spec (x : Xlen) (holds : Word → Bool) (w choice : Word) :
    (legalizeIn x holds w choice = 0 ∨ holds (legalizeIn x holds w choice) = true) ∧
      fit x (legalizeIn x holds w choice) = legalizeIn x holds w choice ∧
      (fit x w = 0 ∨ holds (fit x w) = true → legalizeIn x holds w choice = fit x w) := by
  have hz : fit x 0 = 0 := by cases x <;> rfl
  unfold legalizeIn
  refine ⟨?_, ?_, fun h => by rw [if_pos (by simpa using h)]⟩
  · split
    · next h => simpa using h
    · split
      · next h => exact .inr h
      · exact .inl rfl
  · split
    · exact fit_fit x w
    · split
      · exact fit_fit x choice
      · exact hz

/-- The bits a write stores are the written ones. -/
theorem warlAbove_mod (holds : Nat → Bool) (len n written choice : Nat) :
    warlAbove holds len n written choice % 2 ^ n = written % 2 ^ n := by
  unfold warlAbove
  dsimp only
  rw [Nat.add_mul_mod_self_right, Nat.mod_mod]

/-- The bits above are 0 or in the legal set. -/
theorem warlAbove_legal (holds : Nat → Bool) (len n written choice : Nat) :
    warlAbove holds len n written choice / 2 ^ n = 0 ∨ holds (warlAbove holds len n written choice / 2 ^ n) = true := by
  have hd : ∀ u, (written % 2 ^ n + u * 2 ^ n) / 2 ^ n = u := fun u => by
    rw [Nat.add_mul_div_right _ _ (Nat.two_pow_pos n), Nat.div_eq_of_lt (Nat.mod_lt _ (Nat.two_pow_pos n)), Nat.zero_add]
  simp only [warlAbove, hd]
  split
  · assumption
  · split
    · next h => exact .inr h
    · exact .inl rfl

/-- A value that fits in the stored bits is stored as written. -/
theorem warlAbove_of_lt {holds : Nat → Bool} {len n written : Nat} (choice : Nat) (h : written < 2 ^ n) :
    warlAbove holds len n written choice = written := by
  simp [warlAbove, Nat.div_eq_of_lt h, Nat.mod_eq_of_lt h]

/-- A field stays within its length. -/
theorem warlAbove_lt {holds : Nat → Bool} {len written : Nat} (n choice : Nat) (h : written < 2 ^ len) :
    warlAbove holds len n written choice < 2 ^ len := by
  have hsum := Nat.mod_add_div' written (2 ^ n)
  unfold warlAbove
  dsimp only
  split
  · omega
  · next hu =>
    have hd : ¬ written / 2 ^ n = 0 := fun e => hu (.inl e)
    have hn : n ≤ len := by
      apply Nat.le_of_not_lt
      intro hh
      exact hd (Nat.div_eq_of_lt (Nat.lt_of_lt_of_le h (Nat.pow_le_pow_right (by omega) (Nat.le_of_lt hh))))
    have h1 := Nat.mod_lt written (Nat.two_pow_pos n)
    have h2 := Nat.mod_lt choice (Nat.two_pow_pos (len - n))
    have h3 : 2 ^ len = 2 ^ (len - n) * 2 ^ n := by rw [← Nat.pow_add, Nat.sub_add_cancel hn]
    have h4 : (choice % 2 ^ (len - n) + 1) * 2 ^ n ≤ 2 ^ (len - n) * 2 ^ n := Nat.mul_le_mul_right _ h2
    rw [Nat.add_mul] at h4
    split <;> omega

/-- A value an implementation holds in `htinst`, or 0. -/
theorem htinstLegal_spec (w : Word) : htinstLegal w = 0 ∨ (htinstLegal w = w ∧ Config.htinstHolds w = true) := by
  unfold htinstLegal
  split
  · next h => exact .inr ⟨rfl, h⟩
  · exact .inl rfl

/-! ## Writes and accesses -/

/-- Everything outside the CSRs is as in `s`. -/
structure CsrFrame (s t : State) : Prop where
  cfg : t.cfg = s.cfg
  regs : t.regs = s.regs
  pc : t.pc = s.pc
  priv : t.priv = s.priv
  v : t.v = s.v
  counters : t.counters = s.counters
  mem : t.mem = s.mem
  storedTo : t.storedTo = s.storedTo
  tlb : t.tlb = s.tlb
  plat : t.plat = s.plat
  tick : t.tick = s.tick

/-- Fitting the VS CSRs to a new VSXLEN changes nothing else. -/
theorem State.resizeVs_eq (s : State) (old : Xlen) : s.resizeVs old = { s with vs := (s.resizeVs old).vs } := by
  unfold State.resizeVs
  split <;> rfl

/-- Where VSXLEN stays, the VS CSRs do. -/
theorem State.resizeVs_same {s : State} {old : Xlen} (h : s.vsxlen = old) : s.resizeVs old = s := if_pos h

/-- A write of `hstatus` that is not refused. -/
theorem State.writeHstatus_ok {s t : State} {w : Word} (h : s.writeHstatus w = .ok t) :
    t = State.resizeVs { s with hyp := { s.hyp with hstatus := s.hstatusImage w } } s.vsxlen := by
  unfold State.writeHstatus at h
  split at h <;> cases h
  rfl

/-- How many values the MODE field of a `satp`-shaped register has. -/
def satpModeCount : Xlen → Nat
  | .x32 => 2
  | .x64 => 16

/-- The fields of a `satp`-shaped register made of fields that fit. -/
theorem satpImage_fields {x : Xlen} {mode asid ppn : Nat} (hm : mode < satpModeCount x)
    (ha : asid < 2 ^ asidWidth x) (hp : ppn < 2 ^ ppnWidth x) :
    satpMode x (satpImage x mode asid ppn) = mode ∧ satpAsid x (satpImage x mode asid ppn) = asid ∧
      satpPpn x (satpImage x mode asid ppn) = ppn := by
  cases x <;> simp only [satpModeCount, satpMode, satpAsid, satpPpn, satpImage, asidWidth, ppnWidth] at *
  all_goals
    refine ⟨?_, ?_, ?_⟩
    · rw [field_setField_out _ _ _ _ _ _ (by omega) (by omega), field_setField_out _ _ _ _ _ _ (by omega) (by omega),
        field_setField _ _ _ _ (by omega), Nat.mod_eq_of_lt (by omega)]
    · rw [field_setField_out _ _ _ _ _ _ (by omega) (by omega), field_setField _ _ _ _ (by omega), Nat.mod_eq_of_lt ha]
    · rw [field_setField _ _ _ _ (by omega), Nat.mod_eq_of_lt hp]

/-- A mode that exists at a width fits its field. -/
theorem vsatpModesAt_lt {c : Config} {x : Xlen} {m : Nat} (h : m ∈ vsatpModesAt c x) :
    m < satpModeCount x := by
  unfold vsatpModesAt at h
  cases x <;> simp at h <;> simp only [satpModeCount] <;> omega

/-- `vsatp` legalized holds a supported MODE. -/
theorem State.vsatpLegal_mode {s : State} (h : vsatpModesAt s.cfg s.vsxlen ≠ []) (w : Word) :
    satpMode s.vsxlen (s.vsatpLegal w) ∈ vsatpModesAt s.cfg s.vsxlen := by
  have hm := legalize_mem h (satpMode s.vsxlen w) (Config.legalizeVsatpMode w s.vs.vsatp)
  have ha : satpAsid s.vsxlen w < 2 ^ asidWidth s.vsxlen := by cases s.vsxlen <;> exact field_lt _ _ _
  have hp : satpPpn s.vsxlen w < 2 ^ ppnWidth s.vsxlen := by cases s.vsxlen <;> exact field_lt _ _ _
  have hf := (satpImage_fields (vsatpModesAt_lt hm) (warlAbove_lt (holds := Config.upperHolds .vsatpAsid) s.cfg.asidlen
    (Config.legalizeUpper .vsatpAsid w s.vs.vsatp) ha) (warlAbove_lt (holds := Config.upperHolds .vsatpPpn)
    s.cfg.vsatpPpnBits (Config.legalizeUpper .vsatpPpn w s.vs.vsatp) hp)).1
  unfold State.vsatpLegal State.vsatpFields warlField
  dsimp only
  rw [hf]
  exact hm

/-- A CSR write changes CSRs only. -/
theorem State.writeCsr_frame {s t : State} {c : Csr} {w : Word} (h : s.writeCsr c w = .ok t) : CsrFrame s t := by
  cases c <;> simp only [State.writeCsr] at h
  all_goals first
    | (rw [State.writeHstatus_ok h, State.resizeVs_eq]; exact ⟨rfl, rfl, rfl, rfl, rfl, rfl, rfl, rfl, rfl, rfl, rfl⟩)
    | (cases h; exact ⟨rfl, rfl, rfl, rfl, rfl, rfl, rfl, rfl, rfl, rfl, rfl⟩)
    | (split at h <;> cases h <;> exact ⟨rfl, rfl, rfl, rfl, rfl, rfl, rfl, rfl, rfl, rfl, rfl⟩)

/-- A CSR write is refused exactly where the spec gives a written value no meaning. -/
theorem State.writeCsr_refused (s : State) (c : Csr) (v : Word) :
    (∃ r, s.writeCsr c v = .error r) ↔ s.refusesWrite c v := by
  cases c <;> simp [State.writeCsr, State.writeHstatus, State.refusesWrite] <;> (try split) <;> simp_all

theorem State.counterBar_code {s : State} {n : BitVec 5} {e : Nat} (h : s.counterBar n = some e) :
    e = excIllegal ∨ e = excVirtual := by
  unfold State.counterBar at h
  dsimp only at h
  repeat' split at h
  all_goals first | (cases h; simp) | cases h

/-- A barred CSR access raises the illegal or the virtual instruction exception. -/
theorem State.resolveCsr_error {s : State} {a : CsrAddr} {w : Bool} {e : Nat} (h : s.resolveCsr a w = .error e) :
    e = excIllegal ∨ e = excVirtual := by
  unfold State.resolveCsr at h
  repeat' split at h
  all_goals first
    | (cases h; simp; done)
    | (cases h; exact State.counterBar_code (by assumption))
    | (cases h; split <;> simp; done)
    | cases h

/-- A CSR instruction raises its exception, refuses, or reads and writes. -/
theorem State.csrAccess_cases {s : State} {word : InstrWord} {a : CsrAddr} {rd : Reg} {w : Bool} {f : Word → Word}
    {t : State} (h : s.csrAccess word a rd w f = .next t) :
    (∃ code, s.resolveCsr a w = .error code ∧ t = s.raiseBarred code word) ∨
    (∃ c, s.resolveCsr a w = .ok c ∧ w = false ∧ t = (s.setX rd (fit s.xlen (s.readCsr c))).advance) ∨
    (∃ c s', s.resolveCsr a w = .ok c ∧ w = true ∧ s.writeCsr c (f (s.readCsr c)) = .ok s' ∧
      t = (s'.setX rd (fit s.xlen (s.readCsr c))).advance) := by
  unfold State.csrAccess at h
  split at h
  · next code heq => cases h; exact .inl ⟨code, heq, rfl⟩
  · next c heq =>
    dsimp only at h
    split at h
    · next hw =>
      split at h
      · cases h
      · next s' hs => cases h; exact .inr (.inr ⟨c, s', heq, hw, hs, rfl⟩)
    · next hw => cases h; exact .inr (.inl ⟨c, heq, by simpa using hw, rfl⟩)

/-- What a CSR instruction does follows the resolution of its access. -/
theorem State.csrAnswers_of_resolveCsr {s : State} {a : CsrAddr} {w : Bool} {r : Except Nat Csr}
    (h : s.resolveCsr a w = r) : s.csrAnswers a w r := by
  cases r with
  | error code =>
    intro i hi
    cases i <;> simp only [csrOperand, Option.some.injEq, Prod.mk.injEq, reduceCtorEq] at hi
    all_goals
      obtain ⟨rfl, rfl⟩ := hi
      simp only [exec, execCsrrw, execCsrrs, execCsrrc, execCsrrwi, execCsrrsi, execCsrrci, State.csrAccess, h]
  | ok c =>
    intro i hi
    cases i <;> simp only [csrOperand, Option.some.injEq, Prod.mk.injEq, reduceCtorEq] at hi
    all_goals
      obtain ⟨rfl, rfl⟩ := hi
      simp only [exec, execCsrrw, execCsrrs, execCsrrc, execCsrrwi, execCsrrsi, execCsrrci, State.csrAccess, h, csrDest,
        State.csrNewValue, if_true]
    case csrrw => cases s.writeCsr c _ <;> rfl
    case csrrwi => cases s.writeCsr c _ <;> rfl
    all_goals
      split
      · cases s.writeCsr c _ <;> rfl
      · rfl

end Sys2Proof.Machine
end

