-- ==== Sys2Proof/Laws/Memory.lean ====
section
/-! SUPPORT. Memory: a read after a write to the same place, to another place, and the canonical form, which every
operation keeps. -/

namespace Sys2Proof.Machine

open Sys2Proof

/-- A write leaves every other byte as it was. -/
theorem Memory.readByte_writeByte_ne (m : Memory) (a a' : Nat) (b : Byte) (h : a' ≠ a) :
    Memory.readByte (Memory.writeByte m a b) a' = Memory.readByte m a' := by
  induction m with
  | nil => unfold Memory.writeByte; split <;> simp [Memory.readByte, Ne.symm h]
  | cons c rest ih =>
    obtain ⟨k, c⟩ := c
    simp only [Memory.writeByte]
    split
    · split <;> simp [Memory.readByte, Ne.symm h]
    · split
      · next heq =>
        subst heq
        split <;> simp [Memory.readByte, Ne.symm h]
      · simp [Memory.readByte, ih]

theorem Memory.wfFrom_mono {lo lo' : Nat} {m : Memory} (h : Memory.wfFrom lo m = true) (hl : lo' ≤ lo) :
    Memory.wfFrom lo' m = true := by
  cases m with
  | nil => rfl
  | cons c rest =>
    obtain ⟨k, c⟩ := c
    simp only [Memory.wfFrom, Bool.and_eq_true, decide_eq_true_eq] at h ⊢
    exact ⟨⟨Nat.le_trans hl h.1.1, h.1.2⟩, h.2⟩

/-- Below its first cell a canonical memory is unlisted. -/
theorem Memory.readByte_of_lt {lo a : Nat} {m : Memory} (h : Memory.wfFrom lo m = true) (ha : a < lo) :
    Memory.readByte m a = unlistedByte := by
  induction m generalizing lo with
  | nil => rfl
  | cons c rest ih =>
    obtain ⟨k, c⟩ := c
    simp only [Memory.wfFrom, Bool.and_eq_true, decide_eq_true_eq] at h
    rw [Memory.readByte, if_neg (by omega)]
    exact ih h.2 (by omega)

theorem Memory.readByte_writeByte_from {lo : Nat} {m : Memory} (h : Memory.wfFrom lo m = true) (a : Nat) (b : Byte) :
    Memory.readByte (Memory.writeByte m a b) a = b := by
  induction m generalizing lo with
  | nil => unfold Memory.writeByte; split <;> simp_all [Memory.readByte]
  | cons c rest ih =>
    obtain ⟨k, c⟩ := c
    have h' := h
    simp only [Memory.wfFrom, Bool.and_eq_true, decide_eq_true_eq] at h
    simp only [Memory.writeByte]
    split
    · next hlt =>
      split
      · next hb =>
        rw [hb, Memory.readByte, if_neg (by omega)]
        exact Memory.readByte_of_lt h.2 (by omega)
      · simp [Memory.readByte]
    · split
      · next heq =>
        subst heq
        split
        · next hb => rw [hb]; exact Memory.readByte_of_lt h.2 (by omega)
        · simp [Memory.readByte]
      · next hne =>
        rw [Memory.readByte, if_neg (Ne.symm hne)]
        exact ih h.2

/-- A read after a write to the same place gives the value written. -/
theorem Memory.readByte_writeByte_self {m : Memory} (h : Memory.wf m = true) (a : Nat) (b : Byte) :
    Memory.readByte (Memory.writeByte m a b) a = b := Memory.readByte_writeByte_from h a b

theorem Memory.wfFrom_writeByte {lo : Nat} {m : Memory} (h : Memory.wfFrom lo m = true) (a : Nat) (b : Byte)
    (ha : lo ≤ a) : Memory.wfFrom lo (Memory.writeByte m a b) = true := by
  induction m generalizing lo with
  | nil => unfold Memory.writeByte; split <;> simp_all [Memory.wfFrom]
  | cons c rest ih =>
    obtain ⟨k, c⟩ := c
    have h' := h
    simp only [Memory.wfFrom, Bool.and_eq_true, decide_eq_true_eq] at h
    simp only [Memory.writeByte]
    split
    · next hlt =>
      split
      · exact h'
      · next hb =>
        simp only [Memory.wfFrom, Bool.and_eq_true, decide_eq_true_eq, bne_iff_ne]
        exact ⟨⟨ha, hb⟩, ⟨by omega, by simpa using h.1.2⟩, h.2⟩
    · split
      · next heq =>
        subst heq
        split
        · exact Memory.wfFrom_mono h.2 (by omega)
        · next hb =>
          simp only [Memory.wfFrom, Bool.and_eq_true, decide_eq_true_eq, bne_iff_ne]
          exact ⟨⟨ha, hb⟩, h.2⟩
      · simp only [Memory.wfFrom, Bool.and_eq_true, decide_eq_true_eq]
        exact ⟨h.1, ih h.2 (by omega)⟩

/-- A write keeps the canonical form. -/
theorem Memory.wf_writeByte {m : Memory} (h : Memory.wf m = true) (a : Nat) (b : Byte) :
    Memory.wf (Memory.writeByte m a b) = true := Memory.wfFrom_writeByte h a b (Nat.zero_le _)

/-- Writes keep the canonical form. -/
theorem Memory.wf_writeBytes {m : Memory} (h : Memory.wf m = true) (cells : List (Nat × Byte)) :
    Memory.wf (Memory.writeBytes m cells) = true := by
  induction cells generalizing m with
  | nil => exact h
  | cons c rest ih => obtain ⟨a, b⟩ := c; exact ih (Memory.wf_writeByte h a b)

/-- Writes leave every byte they do not name. -/
theorem Memory.readByte_writeBytes_of_not_mem (m : Memory) (cells : List (Nat × Byte)) (a : Nat)
    (h : a ∉ cells.map Prod.fst) : Memory.readByte (Memory.writeBytes m cells) a = Memory.readByte m a := by
  induction cells generalizing m with
  | nil => rfl
  | cons c rest ih =>
    obtain ⟨k, b⟩ := c
    simp only [List.map_cons, List.mem_cons, not_or] at h
    rw [Memory.writeBytes, ih _ h.2, Memory.readByte_writeByte_ne _ _ _ _ h.1]

/-- Bytes written at distinct addresses read back. -/
theorem Memory.readBytes_writeBytes {m : Memory} (h : Memory.wf m = true) (addrs : List Nat) (bs : List Byte)
    (hn : addrs.Nodup) (hl : addrs.length = bs.length) :
    Memory.readBytes (Memory.writeBytes m (addrs.zip bs)) addrs = bs := by
  induction addrs generalizing m bs with
  | nil => cases bs <;> simp_all [Memory.readBytes]
  | cons a rest ih =>
    cases bs with
    | nil => simp at hl
    | cons b bs =>
      have hn' := List.nodup_cons.mp hn
      have hl' : rest.length = bs.length := by simpa using hl
      have key := ih (Memory.wf_writeByte h a b) bs hn'.2 hl'
      simp only [Memory.readBytes] at key
      have hnot : a ∉ (rest.zip bs).map Prod.fst := by rw [List.map_fst_zip (by omega)]; exact hn'.1
      simp only [List.zip_cons_cons, Memory.writeBytes, Memory.readBytes, List.map_cons]
      rw [key, Memory.readByte_writeBytes_of_not_mem _ _ _ hnot, Memory.readByte_writeByte_self h]

theorem mem_noteStore (l : List Nat) (a x : Nat) : x ∈ noteStore l a ↔ x = a ∨ x ∈ l := by
  induction l with
  | nil => simp [noteStore]
  | cons k rest ih =>
    simp only [noteStore]
    split
    · simp
    · split
      · next h => subst h; simp
      · simp [ih, or_left_comm]

/-- The record of stores grows by exactly the addresses stored to. -/
theorem mem_noteStores (l addrs : List Nat) (x : Nat) : x ∈ noteStores l addrs ↔ x ∈ addrs ∨ x ∈ l := by
  induction addrs generalizing l with
  | nil => simp [noteStores]
  | cons a rest ih =>
    have := ih (noteStore l a)
    simp only [noteStores, List.foldl_cons] at this ⊢
    rw [this, mem_noteStore]
    simp [or_left_comm, or_assoc]

/-- The record's form: strictly rising. -/
def risingFrom : Nat → List Nat → Bool
  | _, [] => true
  | lo, k :: rest => decide (lo ≤ k) && risingFrom (k + 1) rest

theorem risingFrom_noteStore {lo : Nat} {l : List Nat} (h : risingFrom lo l = true) (a : Nat) (ha : lo ≤ a) :
    risingFrom lo (noteStore l a) = true := by
  induction l generalizing lo with
  | nil => simp [noteStore, risingFrom, ha]
  | cons k rest ih =>
    have h' := h
    simp only [risingFrom, Bool.and_eq_true, decide_eq_true_eq] at h
    simp only [noteStore]
    split
    · next hlt => simp only [risingFrom, Bool.and_eq_true, decide_eq_true_eq]; exact ⟨ha, by omega, h.2⟩
    · split
      · exact h'
      · simp only [risingFrom, Bool.and_eq_true, decide_eq_true_eq]; exact ⟨h.1, ih h.2 (by omega)⟩

end Sys2Proof.Machine
end

