-- ==== Sys2Proof/Laws/Translate.lean ====
section
/-! SUPPORT. What translation can change: the cached copies, and, where the implementation sets accessed and dirty bits
itself, memory and the record of stores. One lemma per function of Machine/Translate.lean. -/

namespace Sys2Proof.Machine

open Sys2Proof

/-- The state an answer leaves. -/
def Answer.state {α : Type} : Answer α → State
  | .ok _ s => s
  | .fault _ s => s

/-- The state a located access leaves. -/
def Located.state {α : Type} : Located α → State
  | .ok _ s => s
  | .fault _ _ s => s

/-- `t` is `s` but for cached copies and accessed and dirty bits set in memory. -/
def Walked (s t : State) : Prop :=
  ∃ mem storedTo tlb,
    t = { s with mem := mem, storedTo := storedTo, tlb := tlb } ∧
    (s.cfg.hwUpdatesAD = false → mem = s.mem ∧ storedTo = s.storedTo) ∧
    (Memory.wf s.mem = true → Memory.wf mem = true)

theorem Walked.refl (s : State) : Walked s s := ⟨s.mem, s.storedTo, s.tlb, rfl, fun _ => ⟨rfl, rfl⟩, id⟩

theorem Walked.trans {s t u : State} (h : Walked s t) (k : Walked t u) : Walked s u := by
  obtain ⟨m, st, tl, rfl, h1, h2⟩ := h
  obtain ⟨m', st', tl', rfl, k1, k2⟩ := k
  refine ⟨m', st', tl', rfl, fun hw => ?_, fun hm => k2 (h2 hm)⟩
  obtain ⟨a, b⟩ := k1 hw
  obtain ⟨c, d⟩ := h1 hw
  exact ⟨a.trans c, b.trans d⟩

section
variable {s t : State} (h : Walked s t)
include h
theorem Walked.cfg : t.cfg = s.cfg := by obtain ⟨_, _, _, rfl, -⟩ := h; rfl
theorem Walked.regs : t.regs = s.regs := by obtain ⟨_, _, _, rfl, -⟩ := h; rfl
theorem Walked.pc : t.pc = s.pc := by obtain ⟨_, _, _, rfl, -⟩ := h; rfl
theorem Walked.priv : t.priv = s.priv := by obtain ⟨_, _, _, rfl, -⟩ := h; rfl
theorem Walked.v : t.v = s.v := by obtain ⟨_, _, _, rfl, -⟩ := h; rfl
theorem Walked.hyp : t.hyp = s.hyp := by obtain ⟨_, _, _, rfl, -⟩ := h; rfl
theorem Walked.vs : t.vs = s.vs := by obtain ⟨_, _, _, rfl, -⟩ := h; rfl
theorem Walked.sup : t.sup = s.sup := by obtain ⟨_, _, _, rfl, -⟩ := h; rfl
theorem Walked.mach : t.mach = s.mach := by obtain ⟨_, _, _, rfl, -⟩ := h; rfl
theorem Walked.counters : t.counters = s.counters := by obtain ⟨_, _, _, rfl, -⟩ := h; rfl
theorem Walked.plat : t.plat = s.plat := by obtain ⟨_, _, _, rfl, -⟩ := h; rfl
theorem Walked.tick : t.tick = s.tick := by obtain ⟨_, _, _, rfl, -⟩ := h; rfl
theorem Walked.mem (hw : s.cfg.hwUpdatesAD = false) : t.mem = s.mem := by
  obtain ⟨_, _, _, rfl, k, -⟩ := h; exact (k hw).1
theorem Walked.storedTo (hw : s.cfg.hwUpdatesAD = false) : t.storedTo = s.storedTo := by
  obtain ⟨_, _, _, rfl, k, -⟩ := h; exact (k hw).2
theorem Walked.wf (hm : Memory.wf s.mem = true) : Memory.wf t.mem = true := by
  obtain ⟨_, _, _, rfl, -, k⟩ := h; exact k hm
end

theorem Walked.setTlb (s : State) (t : List TlbEntry) : Walked s (s.setTlb t) :=
  ⟨s.mem, s.storedTo, t, rfl, fun _ => ⟨rfl, rfl⟩, id⟩

theorem Answer.andThen_walked {α β : Type} {s : State} {a : Answer α} {k : α → State → Answer β}
    (h : Walked s a.state) (hk : ∀ x t, a = .ok x t → Walked t (k x t).state) : Walked s (a.andThen k).state := by
  cases a with
  | ok x t => exact h.trans (hk x t rfl)
  | fault f t => exact h

theorem State.cachedPte_walked (s : State) (key : TlbKey) (table : Nat) (serves : Word → Bool)
    (read : State → Answer Word) (h : Walked s (read s).state) :
    Walked s (s.cachedPte key table serves read).state := by
  have hr : Walked s ((read s).andThen fun p s' => .ok p (s'.setTlb (tlbInsert s'.tlb key p table))).state :=
    Answer.andThen_walked h fun x t _ => Walked.setTlb t _
  unfold State.cachedPte
  split
  · dsimp only
    split
    · exact Walked.refl s
    · exact hr
  · exact hr

/-- Finding an entry leaves the state `Walked`, if the access to it does. -/
theorem WalkCtx.entry_walked (c : WalkCtx) (hl : ∀ b a (t : State), Walked t (c.locate b a t).state)
    (level base : Nat) (s : State) : Walked s (c.entry level base s).state :=
  State.cachedPte_walked _ _ _ _ _ (Answer.andThen_walked (hl _ _ _) fun _ _ _ => Walked.refl _)

/-- A walk leaves the state `Walked`, if its accesses to entries do. -/
theorem WalkCtx.walk_walked (c : WalkCtx) (hl : ∀ b a (t : State), Walked t (c.locate b a t).state)
    (levels : List Nat) (base : Nat) (s : State) : Walked s (c.walk levels base s).state := by
  induction levels generalizing base s with
  | nil => exact Walked.refl s
  | cons level rest ih =>
    simp only [WalkCtx.walk]
    refine Answer.andThen_walked (c.entry_walked hl _ _ _) fun p t _ => ?_
    · split
      · exact Walked.refl _
      · exact ih _ _
      · split
        · exact Walked.refl _
        · split
          · exact Walked.refl _
          · split
            · exact Walked.refl _
            · next hw =>
              refine Answer.andThen_walked ?_ fun _ _ _ => Walked.refl _
              refine Answer.andThen_walked (hl _ _ _) fun spas u hu => ?_
              have hwu : u.cfg = t.cfg := by
                have := (hl true (c.entryAddr level base) t).cfg
                rw [hu] at this; exact this
              refine ⟨_, _, _, rfl, fun hf => ?_, fun hm => Memory.wf_writeBytes hm _⟩
              simp_all

theorem State.physical_state (s : State) (a n : Nat) : (s.physical a n).state = s := by
  unfold State.physical; dsimp only; split <;> rfl

theorem State.physical_walked (s : State) (a n : Nat) : Walked s (s.physical a n).state := by
  rw [State.physical_state]; exact Walked.refl s

theorem State.gStage_walked (s : State) (gpa : Nat) (k : AccKind) (mxr implicit : Bool) (n : Nat) :
    Walked s (s.gStage gpa k mxr implicit n).state := by
  unfold State.gStage
  split
  · exact Walked.refl s
  · dsimp only
    split
    · exact Walked.refl s
    · exact WalkCtx.walk_walked _ (fun _ _ t => State.physical_walked t _ _) _ _ _

theorem State.vsStage_walked (s : State) (gva : Nat) (acc : Access) : Walked s (s.vsStage gva acc).state := by
  unfold State.vsStage
  split
  · exact Walked.refl s
  · split
    · exact Walked.refl s
    · refine WalkCtx.walk_walked _ (fun _ _ t => ?_) _ _ _
      exact Answer.andThen_walked (State.gStage_walked _ _ _ _ _ _) fun _ _ _ => State.physical_walked _ _ _

theorem State.singleStage_walked (s : State) (va : Nat) (acc : Access) : Walked s (s.singleStage va acc).state := by
  unfold State.singleStage
  dsimp only
  split
  · exact Walked.refl s
  · exact Walked.refl s
  · split
    · exact Walked.refl s
    · exact WalkCtx.walk_walked _ (fun _ _ t => State.physical_walked t _ _) _ _ _

theorem State.translate_walked (s : State) (va : Word) (acc : Access) : Walked s (s.translate va acc).state := by
  unfold State.translate
  split
  · exact Answer.andThen_walked (State.vsStage_walked _ _ _) fun _ _ _ => State.gStage_walked _ _ _ _ _ _
  · exact State.singleStage_walked _ _ _

theorem State.portion_walked (s : State) (va : Word) (n : Nat) (acc : Access) : Walked s (s.portion va n acc).state := by
  have h : Walked s ((s.translate va acc).andThen fun spa s' => s'.physical spa n).state :=
    Answer.andThen_walked (State.translate_walked _ _ _) fun _ _ _ => State.physical_walked _ _ _
  unfold State.portion
  split <;> next heq => rw [heq] at h; exact h

theorem State.locate_walked (s : State) (va : Word) (n : Nat) (acc : Access) : Walked s (s.locate va n acc).state := by
  unfold State.locate
  dsimp only
  split
  · exact State.portion_walked _ _ _ _
  · have h := State.portion_walked s va (4096 - va.toNat % 4096) acc
    split
    · next heq => rw [heq] at h; exact h
    · next first s' heq =>
      rw [heq] at h
      have h2 := State.portion_walked s' (fit (if acc.effV then s.vsxlen else s.xlen)
        (va + BitVec.ofNat 64 (4096 - va.toNat % 4096))) (n - (4096 - va.toNat % 4096)) acc
      split
      · next heq2 => rw [heq2] at h2; exact h.trans h2
      · next heq2 => rw [heq2] at h2; exact h.trans h2

theorem State.locate_ok_walked {s : State} {va : Word} {n : Nat} {acc : Access} {l : List Nat} {t : State}
    (h : s.locate va n acc = .ok l t) : Walked s t := by
  have := State.locate_walked s va n acc; rw [h] at this; exact this

theorem State.locate_fault_walked {s : State} {va : Word} {n : Nat} {acc : Access} {f : AccFault} {a : Word} {t : State}
    (h : s.locate va n acc = .fault f a t) : Walked s t := by
  have := State.locate_walked s va n acc; rw [h] at this; exact this

/-- A read located and read: nothing but the walk's changes. -/
theorem State.vmemRead_walked (s : State) (va : Word) (n : Nat) (acc : Access) : Walked s (s.vmemRead va n acc).state := by
  unfold State.vmemRead
  split
  · next heq => exact State.locate_fault_walked heq
  · next heq => exact State.locate_ok_walked heq

/-- A write that succeeds changes memory at the located addresses only, after the walk's changes. -/
theorem State.vmemWrite_ok {s : State} {va : Word} {n : Nat} {w : Word} {acc : Access} {u : Unit} {t : State}
    (h : s.vmemWrite va n w acc = .ok u t) :
    ∃ spas s', s.locate va n acc = .ok spas s' ∧ Walked s s' ∧
      t = s'.memWrite (spas.zip (bytesOfValue acc.be n w)) := by
  unfold State.vmemWrite at h
  split at h
  · cases h
  · next spas s' heq =>
    cases h
    exact ⟨spas, s', heq, State.locate_ok_walked heq, rfl⟩

/-- A write that faults writes nothing but what the walk wrote. -/
theorem State.vmemWrite_fault {s : State} {va : Word} {n : Nat} {w : Word} {acc : Access} {f : AccFault} {a : Word}
    {t : State} (h : s.vmemWrite va n w acc = .fault f a t) : s.locate va n acc = .fault f a t ∧ Walked s t := by
  unfold State.vmemWrite at h
  split at h
  · next heq => cases h; exact ⟨heq, State.locate_fault_walked heq⟩
  · cases h

/-! ## Fences -/

@[simp] theorem State.mem_flush (s : State) (scope : TlbEntry → Bool) (e : TlbEntry) :
    e ∈ (s.flush scope).tlb ↔ e ∈ s.tlb ∧ scope e = false := by
  simp [State.flush, State.setTlb]

/-- HFENCE.GVMA's scope: a copy of either stage of two, of the VMID and of the guest physical page named. -/
theorem gScope_iff (page vmid : Option Nat) (e : TlbEntry) :
    gScope page vmid e = true ↔
      ∃ p, e.guestPage = some p ∧ (∀ v, vmid = some v → v = e.key.vmid) ∧ (∀ q, page = some q → q = p) := by
  cases hg : e.guestPage <;> cases vmid <;> cases page <;> simp [gScope, hg]

end Sys2Proof.Machine
end

