-- ==== Sys2Proof/Laws/Exec.lean ====
section
/-! SUPPORT. What the remaining meanings and the step can do: one inversion lemma each. -/

namespace Sys2Proof.Machine

open Sys2Proof

theorem State.unlessBarred_cases {s : State} {i : Instr} {bar : Option Nat} {e t : State}
    (h : s.unlessBarred i bar e = .next t) :
    (∃ code, bar = some code ∧ t = s.raiseBarred code (encode i)) ∨ (bar = none ∧ t = e) := by
  unfold State.unlessBarred at h
  split at h
  · next code => cases h; exact .inl ⟨code, rfl, rfl⟩
  · cases h; exact .inr ⟨rfl, rfl⟩

/-- A virtual-machine load is barred, misaligned, faults, or writes its register. -/
theorem State.virtLoad_cases {s : State} {i : Instr} {k : AccKind} {n : Nat} {signed : Bool} {rd rs1 : Reg} {t : State}
    (h : s.virtLoad i k n signed rd rs1 = .next t) :
    (∃ code, s.virtMemBar i.rv64Only = some code ∧ t = s.raiseBarred code (encode i)) ∨
    (s.virtMemBar i.rv64Only = none ∧ s.misalignedFor (s.x rs1) n = true ∧
      t = s.raise (virtMemTrap .misaligned (s.virtAccess k) (encode i) (s.x rs1) (s.x rs1))) ∨
    (∃ f a s', s.virtMemBar i.rv64Only = none ∧ s.misalignedFor (s.x rs1) n = false ∧
      s.vmemRead (s.x rs1) n (s.virtAccess k) = .fault f a s' ∧ Walked s s' ∧
      t = s'.raise (virtMemTrap f (s.virtAccess k) (encode i) (s.x rs1) a)) ∨
    (∃ w s', s.virtMemBar i.rv64Only = none ∧ s.misalignedFor (s.x rs1) n = false ∧
      s.vmemRead (s.x rs1) n (s.virtAccess k) = .ok w s' ∧ Walked s s' ∧
      t = (s'.setX rd (extendLoaded signed n w)).advance) := by
  have hw := State.vmemRead_walked s (s.x rs1) n (s.virtAccess k)
  unfold State.virtLoad at h
  split at h
  · next code hb => cases h; exact .inl ⟨code, hb, rfl⟩
  · next hb =>
    dsimp only at h
    split at h
    · next hm => cases h; exact .inr (.inl ⟨hb, hm, rfl⟩)
    · next hm =>
      have hm' : s.misalignedFor (s.x rs1) n = false := by simpa using hm
      split at h
      · next f a s' he => rw [he] at hw; cases h; exact .inr (.inr (.inl ⟨f, a, s', hb, hm', he, hw, rfl⟩))
      · next w s' he => rw [he] at hw; cases h; exact .inr (.inr (.inr ⟨w, s', hb, hm', he, hw, rfl⟩))

/-- A virtual-machine store is barred, misaligned, faults, or writes its bytes. -/
theorem State.virtStore_cases {s : State} {i : Instr} {n : Nat} {rs2 rs1 : Reg} {t : State}
    (h : s.virtStore i n rs2 rs1 = .next t) :
    (∃ code, s.virtMemBar i.rv64Only = some code ∧ t = s.raiseBarred code (encode i)) ∨
    (s.virtMemBar i.rv64Only = none ∧ s.misalignedFor (s.x rs1) n = true ∧
      t = s.raise (virtMemTrap .misaligned (s.virtAccess .store) (encode i) (s.x rs1) (s.x rs1))) ∨
    (∃ f a s', s.virtMemBar i.rv64Only = none ∧ s.misalignedFor (s.x rs1) n = false ∧
      s.locate (s.x rs1) n (s.virtAccess .store) = .fault f a s' ∧ Walked s s' ∧
      t = s'.raise (virtMemTrap f (s.virtAccess .store) (encode i) (s.x rs1) a)) ∨
    (∃ spas s', s.virtMemBar i.rv64Only = none ∧ s.misalignedFor (s.x rs1) n = false ∧
      s.locate (s.x rs1) n (s.virtAccess .store) = .ok spas s' ∧ Walked s s' ∧
      t = (s'.memWrite (spas.zip (bytesOfValue (s.virtAccess .store).be n (s.x rs2)))).advance) := by
  unfold State.virtStore at h
  split at h
  · next code hb => cases h; exact .inl ⟨code, hb, rfl⟩
  · next hb =>
    dsimp only at h
    split at h
    · next hm => cases h; exact .inr (.inl ⟨hb, hm, rfl⟩)
    · next hm =>
      have hm' : s.misalignedFor (s.x rs1) n = false := by simpa using hm
      split at h
      · next f a s' he =>
        obtain ⟨he', hw⟩ := State.vmemWrite_fault he
        cases h; exact .inr (.inr (.inl ⟨f, a, s', hb, hm', he', hw, rfl⟩))
      · next u s' he =>
        obtain ⟨spas, s'', he', hw, rfl⟩ := State.vmemWrite_ok he
        cases h; exact .inr (.inr (.inr ⟨spas, s'', hb, hm', he', hw, rfl⟩))

/-! ## The fetch and the step -/

/-- A parcel's state is what translation leaves. -/
def Parcel.Within (s : State) : Parcel → Prop
  | .ok _ t => Walked s t
  | .trap _ t => Walked s t
  | .stale _ => True

/-- A fetch's state is what translation leaves. -/
def Fetched.Within (s : State) : Fetched → Prop
  | .word _ t => Walked s t
  | .trap _ t => Walked s t
  | .stale _ => True

theorem State.fetchParcel_walked (s : State) (va : Word) : (s.fetchParcel va).Within s := by
  have h := State.locate_walked s va 2 s.fetchAccess
  unfold State.fetchParcel
  dsimp only
  cases hl : s.locate va 2 s.fetchAccess with
  | fault f a t => rw [hl] at h; exact h
  | ok spas t =>
    rw [hl] at h
    dsimp only
    cases spas.find? (t.storedTo.contains ·) with
    | none => exact h
    | some a => trivial

/-- A fetch changes nothing but what translation changes. -/
theorem State.fetch_walked (s : State) : s.fetch.Within s := by
  unfold State.fetch
  split
  · exact Walked.refl s
  · have h := State.fetchParcel_walked s s.pc
    cases hp : s.fetchParcel s.pc with
    | trap t s' => rw [hp] at h; exact h
    | stale a => trivial
    | ok lo s' =>
      rw [hp] at h
      dsimp only
      split
      · exact h
      · have h2 := State.fetchParcel_walked s' (fit s'.xlen (s'.pc + 2))
        cases hq : s'.fetchParcel (fit s'.xlen (s'.pc + 2)) with
        | trap t s'' => rw [hq] at h2; exact Walked.trans h h2
        | stale a => trivial
        | ok hi s'' => rw [hq] at h2; exact Walked.trans h h2

theorem State.fetch_word_walked {s t : State} {w : InstrWord} (h : s.fetch = .word w t) : Walked s t := by
  have := State.fetch_walked s; rw [h] at this; exact this

theorem State.fetch_trap_walked {s t : State} {p : Trap} (h : s.fetch = .trap p t) : Walked s t := by
  have := State.fetch_walked s; rw [h] at this; exact this

/-- The code of a failed access is a listed exception code. -/
theorem AccFault.code_mem (f : AccFault) (k : AccKind) : f.code k ∈ excCodes := by
  cases f <;> cases k <;> (simp only [AccFault.code]; decide)

/-- A trap of a parcel is a failed access. -/
theorem State.fetchParcel_trap {s t : State} {va : Word} {p : Trap} (h : s.fetchParcel va = .trap p t) :
    ∃ f a, p = accessTrap f s.fetchAccess a 0 := by
  unfold State.fetchParcel at h
  dsimp only at h
  split at h
  · next f a s' _ => cases h; exact ⟨f, a, rfl⟩
  · split at h <;> cases h

/-- A trap of a fetch is a failed access. -/
theorem State.fetch_trap {s t : State} {p : Trap} (h : s.fetch = .trap p t) :
    ∃ u f a, Walked s u ∧ p = accessTrap f u.fetchAccess a 0 := by
  unfold State.fetch at h
  split at h
  · cases h; exact ⟨s, .misaligned, s.pc, Walked.refl s, rfl⟩
  · have hw := State.fetchParcel_walked s s.pc
    split at h
    · next p' s' hp =>
      cases h
      obtain ⟨f, a, rfl⟩ := State.fetchParcel_trap hp
      exact ⟨s, f, a, Walked.refl s, rfl⟩
    · cases h
    · next lo s' hp =>
      rw [hp] at hw
      split at h
      · cases h
      · split at h
        · next p' s'' hp' =>
          cases h
          obtain ⟨f, a, rfl⟩ := State.fetchParcel_trap hp'
          exact ⟨s', f, a, hw, rfl⟩
        · cases h
        · cases h

/-- A rejected word raises the illegal instruction exception or is refused. -/
theorem State.execRejected_cases {s : State} {r : Reject} {w : InstrWord} {t : State}
    (h : s.execRejected r w = .next t) : t = s.raiseBarred excIllegal w := by
  cases r <;> simp only [State.execRejected] at h
  · cases h
  · split at h <;> cases h; rfl
  · cases h; rfl
  · split at h <;> cases h; rfl
  · split at h <;> cases h; rfl

/-- A step takes an interrupt, traps on the fetch, runs an instruction, or raises the illegal instruction exception; then
comes the platform's part. -/
theorem step_cases {s t : State} (h : step s = .next t) :
    ∃ u, t = u.platformStep ∧
      ((∃ g c, s.interrupt = some (g, c) ∧ u = s.takeInterrupt g c) ∨
       (∃ p s', s.interrupt = none ∧ s.fetch = .trap p s' ∧ Walked s s' ∧ u = s'.raise p) ∨
       (∃ w s' i, s.interrupt = none ∧ s.fetch = .word w s' ∧ Walked s s' ∧ decode w = .ok i ∧ exec i s' = .next u) ∨
       (∃ w s', s.interrupt = none ∧ s.fetch = .word w s' ∧ Walked s s' ∧ u = s'.raiseBarred excIllegal w)) := by
  unfold step at h
  cases hu : hartStep s with
  | fault r => rw [hu] at h; cases h
  | refused r => rw [hu] at h; cases h
  | next u =>
    rw [hu] at h
    refine ⟨u, by cases h; rfl, ?_⟩
    unfold hartStep at hu
    split at hu
    · next g c hi => cases hu; exact .inl ⟨g, c, hi, rfl⟩
    · next hi =>
      split at hu
      · next p s' hf => cases hu; exact .inr (.inl ⟨p, s', hi, hf, State.fetch_trap_walked hf, rfl⟩)
      · cases hu
      · next w s' hf =>
        split at hu
        · next i hd => exact .inr (.inr (.inl ⟨w, s', i, hi, hf, State.fetch_word_walked hf, hd, hu⟩))
        · next r hd =>
          exact .inr (.inr (.inr ⟨w, s', hi, hf, State.fetch_word_walked hf, State.execRejected_cases hu⟩))

end Sys2Proof.Machine
end

