-- ==== Sys2Proof/Laws/Dispatch.lean ====
section
/-! SUPPORT. What any instruction can do, said once: the nine ways `exec` answers a next state; and the loads and stores by
their shapes. -/

namespace Sys2Proof.Machine

open Sys2Proof

/-- A load is `State.virtLoad` at its shape. -/
theorem exec_loadShape {i : Instr} {h : LoadShape} (hs : loadShape i = some h) (s : State) :
    exec i s = s.virtLoad i h.kind h.bytes h.signed h.rd h.rs1 := by
  cases i <;> simp only [loadShape, Option.some.injEq, reduceCtorEq] at hs <;> subst hs <;> rfl

/-- A store is `State.virtStore` at its shape. -/
theorem exec_storeShape {i : Instr} {h : StoreShape} (hs : storeShape i = some h) (s : State) :
    exec i s = s.virtStore i h.bytes h.rs2 h.rs1 := by
  cases i <;> simp only [storeShape, Option.some.injEq, reduceCtorEq] at hs <;> subst hs <;> rfl

/-- What an instruction that answers a next state did. -/
inductive Effect (i : Instr) (s : State) : State → Prop where
  /-- It took an exception, after a translation it may have begun. -/
  | trapped (s' : State) (p : Trap) : Walked s s' → p.isInt = false → p.code ∈ excCodes → Effect i s (s'.raise p)
  /-- It read a CSR. -/
  | csrRead (rd : Reg) (w : Word) : Effect i s ((s.setX rd w).advance)
  /-- It wrote a CSR. -/
  | csrWritten (s' : State) (a : CsrAddr) (c : Csr) (v : Word) (rd : Reg) (w : Word) :
      csrOperand i = some (a, true) → s.resolveCsr a true = .ok c → s.writeCsr c v = .ok s' → CsrFrame s s' →
        Effect i s ((s'.setX rd w).advance)
  /-- It loaded. -/
  | loaded (s' : State) (rd : Reg) (w : Word) : Walked s s' → Effect i s ((s'.setX rd w).advance)
  /-- It stored. -/
  | stored (s' : State) (cells : List (Nat × Byte)) : Walked s s' → Effect i s (s'.memWrite cells).advance
  /-- It dropped cached translations. -/
  | fenced (scope : TlbEntry → Bool) : Effect i s (s.flush scope).advance
  /-- It moved on. -/
  | moved : Effect i s s.advance
  /-- SRET in VS-mode. -/
  | returnedGuest : i = .sret → s.v = true → Effect i s s.returnGuest
  /-- SRET at V = 0. -/
  | returnedHyper : i = .sret → s.v = false → s.priv ≠ .u → Effect i s s.returnHyper
  /-- MRET. -/
  | returnedMachine : i = .mret → s.priv = .m → Effect i s s.returnMachine

/-- The exception of a barred instruction. -/
theorem Effect.of_barred {i : Instr} {s : State} {c : Nat} {w : InstrWord} (h : c = excIllegal ∨ c = excVirtual) :
    Effect i s (s.raiseBarred c w) :=
  .trapped s _ (Walked.refl s) rfl (show c ∈ excCodes by rcases h with rfl | rfl <;> decide)

theorem State.virtMemBar_code {s : State} {b : Bool} {c : Nat} (h : s.virtMemBar b = some c) :
    c = excIllegal ∨ c = excVirtual := by
  unfold State.virtMemBar at h
  repeat' split at h
  all_goals first | (cases h; simp) | cases h

theorem Effect.of_csrAccess {i : Instr} {s t : State} {word : InstrWord} {a : CsrAddr} {rd : Reg} {w : Bool}
    {f : Word → Word} (hi : csrOperand i = some (a, w)) (h : s.csrAccess word a rd w f = .next t) : Effect i s t := by
  rcases State.csrAccess_cases h with ⟨c, hc, rfl⟩ | ⟨c, -, -, rfl⟩ | ⟨c, s', hc, rfl, hs, rfl⟩
  · exact .of_barred (State.resolveCsr_error hc)
  · exact .csrRead _ _
  · exact .csrWritten s' _ _ _ _ _ hi hc hs (State.writeCsr_frame hs)

theorem Effect.of_virtLoad {i j : Instr} {s t : State} {k : AccKind} {n : Nat} {signed : Bool} {rd rs1 : Reg}
    (h : s.virtLoad j k n signed rd rs1 = .next t) : Effect i s t := by
  rcases State.virtLoad_cases h with ⟨c, hc, rfl⟩ | ⟨-, -, rfl⟩ | ⟨f, a, s', -, -, -, hw, rfl⟩ | ⟨w, s', -, -, -, hw, rfl⟩
  · exact .of_barred (State.virtMemBar_code hc)
  · exact .trapped s _ (Walked.refl s) rfl (AccFault.code_mem .misaligned _)
  · exact .trapped s' _ hw rfl (AccFault.code_mem _ _)
  · exact .loaded s' _ _ hw

theorem Effect.of_virtStore {i j : Instr} {s t : State} {n : Nat} {rs2 rs1 : Reg}
    (h : s.virtStore j n rs2 rs1 = .next t) : Effect i s t := by
  rcases State.virtStore_cases h with ⟨c, hc, rfl⟩ | ⟨-, -, rfl⟩ | ⟨f, a, s', -, -, -, hw, rfl⟩ | ⟨l, s', -, -, -, hw, rfl⟩
  · exact .of_barred (State.virtMemBar_code hc)
  · exact .trapped s _ (Walked.refl s) rfl (AccFault.code_mem .misaligned .store)
  · exact .trapped s' _ hw rfl (AccFault.code_mem f .store)
  · exact .stored s' _ hw

theorem State.sretBar_code {s : State} {c : Nat} (h : s.sretBar = some c) : c = excIllegal ∨ c = excVirtual := by
  unfold State.sretBar at h
  repeat' split at h
  all_goals first | (cases h; simp) | cases h

theorem State.sfenceBar_code {s : State} {c : Nat} (h : s.sfenceBar = some c) : c = excIllegal ∨ c = excVirtual := by
  unfold State.sfenceBar at h
  repeat' split at h
  all_goals first | (cases h; simp) | cases h

theorem State.wfiLimitCode_code {s : State} {c : Nat} (h : s.wfiLimitCode = some c) :
    c = excIllegal ∨ c = excVirtual := by
  unfold State.wfiLimitCode at h
  repeat' split at h
  all_goals first | (cases h; simp) | cases h

theorem State.ecallCode_mem (s : State) : s.ecallCode ∈ excCodes := by
  unfold State.ecallCode
  repeat' split
  all_goals decide

theorem Effect.of_unlessBarred {i : Instr} {s e t : State} {bar : Option Nat} (h : s.unlessBarred i bar e = .next t)
    (hc : ∀ c, bar = some c → c = excIllegal ∨ c = excVirtual) (he : bar = none → Effect i s e) : Effect i s t := by
  rcases State.unlessBarred_cases h with ⟨c, hb, rfl⟩ | ⟨hb, rfl⟩
  · exact .of_barred (hc c hb)
  · exact he hb

/-- Everything an instruction can do when it answers a next state. -/
theorem exec_effect {i : Instr} {s t : State} (h : exec i s = .next t) : Effect i s t := by
  cases i with
  | csrrw rd csr rs1 => simp only [exec, execCsrrw] at h; exact Effect.of_csrAccess rfl h
  | csrrs rd csr rs1 => simp only [exec, execCsrrs] at h; exact Effect.of_csrAccess rfl h
  | csrrc rd csr rs1 => simp only [exec, execCsrrc] at h; exact Effect.of_csrAccess rfl h
  | csrrwi rd csr uimm => simp only [exec, execCsrrwi] at h; exact Effect.of_csrAccess rfl h
  | csrrsi rd csr uimm => simp only [exec, execCsrrsi] at h; exact Effect.of_csrAccess rfl h
  | csrrci rd csr uimm => simp only [exec, execCsrrci] at h; exact Effect.of_csrAccess rfl h
  | ecall => cases h; exact .trapped s _ (Walked.refl s) rfl s.ecallCode_mem
  | ebreak => cases h; exact .trapped s _ (Walked.refl s) rfl (show (3 : Nat) ∈ excCodes by decide)
  | sret =>
    refine Effect.of_unlessBarred (show s.unlessBarred _ _ _ = _ from h) (fun _ => State.sretBar_code) fun hb => ?_
    split
    · next hv => exact .returnedGuest rfl hv
    · next hv =>
      refine .returnedHyper rfl (by simpa using hv) fun hu => ?_
      simp [State.sretBar, hv, hu] at hb
  | mret =>
    refine Effect.of_unlessBarred (show s.unlessBarred _ _ _ = _ from h) ?_ fun hb => .returnedMachine rfl ?_
    · intro c hc; split at hc <;> cases hc; simp
    · by_cases hm : s.priv = .m
      · exact hm
      · simp [hm] at hb
  | wfi =>
    simp only [exec, execWfi] at h
    split at h
    · cases h; exact .moved
    · next hc =>
      split at h
      · cases h; exact .of_barred (State.wfiLimitCode_code hc)
      · cases h; exact .moved
  | sfenceVma rs1 rs2 =>
    refine Effect.of_unlessBarred (show s.unlessBarred _ _ _ = _ from h) (fun _ => State.sfenceBar_code) fun _ => ?_
    split <;> exact .fenced _
  | hfenceVvma rs1 rs2 =>
    refine Effect.of_unlessBarred (show s.unlessBarred _ _ _ = _ from h) ?_ fun _ => .fenced _
    intro c hc
    repeat' split at hc
    all_goals first | (cases hc; simp) | cases hc
  | hfenceGvma rs1 rs2 =>
    refine Effect.of_unlessBarred (show s.unlessBarred _ _ _ = _ from h) ?_ fun _ => .fenced _
    intro c hc
    repeat' split at hc
    all_goals first | (cases hc; simp) | cases hc
  | hlvB rd rs1 => exact Effect.of_virtLoad (show execHlvB rd rs1 s = _ from h)
  | hlvBu rd rs1 => exact Effect.of_virtLoad (show execHlvBu rd rs1 s = _ from h)
  | hlvH rd rs1 => exact Effect.of_virtLoad (show execHlvH rd rs1 s = _ from h)
  | hlvHu rd rs1 => exact Effect.of_virtLoad (show execHlvHu rd rs1 s = _ from h)
  | hlvxHu rd rs1 => exact Effect.of_virtLoad (show execHlvxHu rd rs1 s = _ from h)
  | hlvW rd rs1 => exact Effect.of_virtLoad (show execHlvW rd rs1 s = _ from h)
  | hlvWu rd rs1 => exact Effect.of_virtLoad (show execHlvWu rd rs1 s = _ from h)
  | hlvxWu rd rs1 => exact Effect.of_virtLoad (show execHlvxWu rd rs1 s = _ from h)
  | hlvD rd rs1 => exact Effect.of_virtLoad (show execHlvD rd rs1 s = _ from h)
  | hsvB rs2 rs1 => exact Effect.of_virtStore (show execHsvB rs2 rs1 s = _ from h)
  | hsvH rs2 rs1 => exact Effect.of_virtStore (show execHsvH rs2 rs1 s = _ from h)
  | hsvW rs2 rs1 => exact Effect.of_virtStore (show execHsvW rs2 rs1 s = _ from h)
  | hsvD rs2 rs1 => exact Effect.of_virtStore (show execHsvD rs2 rs1 s = _ from h)

/-- What every step but a CSR write keeps: it is enough that each other thing a step can do keeps it. -/
theorem step_keeps_or_writes {P : State → Prop}
    (hplat : ∀ s : State, P s → P s.platformStep)
    (hwalk : ∀ s t : State, Walked s t → P s → P t)
    (hreg : ∀ (s : State) (r : Reg) (w : Word), P s → P (s.setX r w))
    (hpc : ∀ s : State, P s → P s.advance)
    (hmem : ∀ (s : State) (cells : List (Nat × Byte)), P s → P (s.memWrite cells))
    (hfence : ∀ (s : State) (scope : TlbEntry → Bool), P s → P (s.flush scope))
    (htrap : ∀ (s : State) (p : Trap), P s → p.isInt = false → p.code ∈ excCodes → P (s.raise p))
    (hint : ∀ (s : State) (g : Target) (c : Nat), s.interrupt = some (g, c) → P s → P (s.takeInterrupt g c))
    (hguest : ∀ s : State, s.v = true → P s → P s.returnGuest)
    (hhyper : ∀ s : State, s.v = false → P s → P s.returnHyper)
    (hmachine : ∀ s : State, s.priv = .m → P s → P s.returnMachine) :
    ∀ s t : State, P s → step s = .next t → P t ∨
      ∃ w s' i a c v u rd z, s.interrupt = none ∧ s.fetch = .word w s' ∧ Walked s s' ∧ decode w = .ok i ∧
        csrOperand i = some (a, true) ∧ s'.resolveCsr a true = .ok c ∧ s'.writeCsr c v = .ok u ∧
        t = ((u.setX rd z).advance).platformStep := by
  intro s t h hs
  obtain ⟨u, rfl, hu⟩ := step_cases hs
  rcases hu with ⟨g, c, hi, rfl⟩ | ⟨p, s', hi, hf, hw, rfl⟩ | ⟨w, s', i, hi, hf, hw, hd, he⟩ | ⟨w, s', hi, hf, hw, rfl⟩
  · exact .inl (hplat _ (hint s g c hi h))
  · obtain ⟨u, f, a, -, rfl⟩ := State.fetch_trap hf
    exact .inl (hplat _ (htrap s' _ (hwalk s s' hw h) rfl (AccFault.code_mem f _)))
  · have h' := hwalk s s' hw h
    cases exec_effect he with
    | trapped s'' p hw2 hi hc => exact .inl (hplat _ (htrap s'' p (hwalk s' s'' hw2 h') hi hc))
    | csrRead rd w => exact .inl (hplat _ (hpc _ (hreg _ _ _ h')))
    | csrWritten s'' a c v rd z ha hc h1 h2 => exact .inr ⟨w, s', i, a, c, v, s'', rd, z, hi, hf, hw, hd, ha, hc, h1, rfl⟩
    | loaded s'' rd w h1 => exact .inl (hplat _ (hpc _ (hreg _ _ _ (hwalk s' s'' h1 h'))))
    | stored s'' cells h1 => exact .inl (hplat _ (hpc _ (hmem _ _ (hwalk s' s'' h1 h'))))
    | fenced scope => exact .inl (hplat _ (hpc _ (hfence _ _ h')))
    | moved => exact .inl (hplat _ (hpc _ h'))
    | returnedGuest _ hv => exact .inl (hplat _ (hguest _ hv h'))
    | returnedHyper _ hv _ => exact .inl (hplat _ (hhyper _ hv h'))
    | returnedMachine _ hm => exact .inl (hplat _ (hmachine _ hm h'))
  · exact .inl (hplat _ (htrap s' _ (hwalk s s' hw h) rfl (show (2 : Nat) ∈ excCodes by decide)))

/-- What every step keeps: it is enough that each thing a step can do keeps it. -/
theorem step_keeps {P : State → Prop}
    (hplat : ∀ s : State, P s → P s.platformStep)
    (hwalk : ∀ s t : State, Walked s t → P s → P t)
    (hreg : ∀ (s : State) (r : Reg) (w : Word), P s → P (s.setX r w))
    (hpc : ∀ s : State, P s → P s.advance)
    (hmem : ∀ (s : State) (cells : List (Nat × Byte)), P s → P (s.memWrite cells))
    (hfence : ∀ (s : State) (scope : TlbEntry → Bool), P s → P (s.flush scope))
    (htrap : ∀ (s : State) (p : Trap), P s → p.isInt = false → p.code ∈ excCodes → P (s.raise p))
    (hint : ∀ (s : State) (g : Target) (c : Nat), s.interrupt = some (g, c) → P s → P (s.takeInterrupt g c))
    (hcsr : ∀ (s t : State) (c : Csr) (w : Word), P s → s.writeCsr c w = .ok t → P t)
    (hguest : ∀ s : State, s.v = true → P s → P s.returnGuest)
    (hhyper : ∀ s : State, s.v = false → P s → P s.returnHyper)
    (hmachine : ∀ s : State, s.priv = .m → P s → P s.returnMachine) :
    ∀ s t : State, P s → step s = .next t → P t := by
  intro s t h hs
  rcases step_keeps_or_writes hplat hwalk hreg hpc hmem hfence htrap hint hguest hhyper hmachine s t h hs with h' |
    ⟨_, s', _, _, c, v, u, rd, z, -, -, hw, -, -, -, hu, rfl⟩
  · exact h'
  · exact hplat _ (hpc _ (hreg _ _ _ (hcsr s' u c v (hwalk s s' hw h) hu)))

end Sys2Proof.Machine
end

