-- ==== Sys2Proof/Laws/Encoding.lean ====
section
/-! SUPPORT. The bits and the fields of a word built in format I-csr or R-sys (30_encoding.md R181, R182). -/

namespace Sys2Proof

theorem getLsbD_encodeCsr (f3 : BitVec 3) (rd : Reg) (c : CsrAddr) (src : BitVec 5) (i : Nat) :
    (encodeCsr f3 rd c src).getLsbD i =
      if i < 7 then opcodeSystem.getLsbD i else if i < 12 then rd.getLsbD (i - 7)
      else if i < 15 then f3.getLsbD (i - 12) else if i < 20 then src.getLsbD (i - 15) else c.getLsbD (i - 20) := by
  change BitVec.getLsbD (w := 12 + 5 + 3 + 5 + 7) (c ++ src ++ f3 ++ rd ++ opcodeSystem) i = _
  simp only [BitVec.getLsbD_append, Nat.sub_sub]
  grind

theorem getLsbD_encodeSys (f7 : BitVec 7) (rs2 rs1 : Reg) (f3 : BitVec 3) (rd : Reg) (i : Nat) :
    (encodeSys f7 rs2 rs1 f3 rd).getLsbD i =
      if i < 7 then opcodeSystem.getLsbD i else if i < 12 then rd.getLsbD (i - 7)
      else if i < 15 then f3.getLsbD (i - 12) else if i < 20 then rs1.getLsbD (i - 15)
      else if i < 25 then rs2.getLsbD (i - 20) else f7.getLsbD (i - 25) := by
  change BitVec.getLsbD (w := 7 + 5 + 5 + 3 + 5 + 7) (f7 ++ rs2 ++ rs1 ++ f3 ++ rd ++ opcodeSystem) i = _
  simp only [BitVec.getLsbD_append, Nat.sub_sub]
  grind

/-- A field of a word by its bits. -/
theorem extractLsb'_eq_of_bits {n : Nat} {w : InstrWord} {lo : Nat} {x : BitVec n}
    (h : ∀ i, i < n → w.getLsbD (lo + i) = x.getLsbD i) : w.extractLsb' lo n = x := by
  apply BitVec.eq_of_getLsbD_eq
  intro i hi
  simp [hi, h i hi]

section
variable (f3 : BitVec 3) (rd : Reg) (c : CsrAddr) (src : BitVec 5)

theorem fieldOpcode_encodeCsr : fieldOpcode (encodeCsr f3 rd c src) = opcodeSystem :=
  extractLsb'_eq_of_bits fun i hi => by rw [getLsbD_encodeCsr]; grind

theorem fieldRd_encodeCsr : fieldRd (encodeCsr f3 rd c src) = rd :=
  extractLsb'_eq_of_bits fun i hi => by rw [getLsbD_encodeCsr]; grind

theorem fieldFunct3_encodeCsr : fieldFunct3 (encodeCsr f3 rd c src) = f3 :=
  extractLsb'_eq_of_bits fun i hi => by rw [getLsbD_encodeCsr]; grind

theorem fieldRs1_encodeCsr : fieldRs1 (encodeCsr f3 rd c src) = src :=
  extractLsb'_eq_of_bits fun i hi => by rw [getLsbD_encodeCsr]; grind

theorem fieldCsr_encodeCsr : fieldCsr (encodeCsr f3 rd c src) = c :=
  extractLsb'_eq_of_bits fun i hi => by rw [getLsbD_encodeCsr]; grind

theorem lowBits_encodeCsr : (encodeCsr f3 rd c src).extractLsb' 0 2 = 3 :=
  extractLsb'_eq_of_bits fun i hi => by rw [getLsbD_encodeCsr, if_pos (by omega)]; have : i = 0 ∨ i = 1 := by omega
                                        rcases this with rfl | rfl <;> rfl
end

section
variable (f7 : BitVec 7) (rs2 rs1 : Reg) (f3 : BitVec 3) (rd : Reg)

theorem fieldOpcode_encodeSys : fieldOpcode (encodeSys f7 rs2 rs1 f3 rd) = opcodeSystem :=
  extractLsb'_eq_of_bits fun i hi => by rw [getLsbD_encodeSys]; grind

theorem fieldRd_encodeSys : fieldRd (encodeSys f7 rs2 rs1 f3 rd) = rd :=
  extractLsb'_eq_of_bits fun i hi => by rw [getLsbD_encodeSys]; grind

theorem fieldFunct3_encodeSys : fieldFunct3 (encodeSys f7 rs2 rs1 f3 rd) = f3 :=
  extractLsb'_eq_of_bits fun i hi => by rw [getLsbD_encodeSys]; grind

theorem fieldRs1_encodeSys : fieldRs1 (encodeSys f7 rs2 rs1 f3 rd) = rs1 :=
  extractLsb'_eq_of_bits fun i hi => by rw [getLsbD_encodeSys]; grind

theorem fieldRs2_encodeSys : fieldRs2 (encodeSys f7 rs2 rs1 f3 rd) = rs2 :=
  extractLsb'_eq_of_bits fun i hi => by rw [getLsbD_encodeSys]; grind

theorem fieldFunct7_encodeSys : fieldFunct7 (encodeSys f7 rs2 rs1 f3 rd) = f7 :=
  extractLsb'_eq_of_bits fun i hi => by rw [getLsbD_encodeSys]; grind

theorem lowBits_encodeSys : (encodeSys f7 rs2 rs1 f3 rd).extractLsb' 0 2 = 3 :=
  extractLsb'_eq_of_bits fun i hi => by rw [getLsbD_encodeSys, if_pos (by omega)]; have : i = 0 ∨ i = 1 := by omega
                                        rcases this with rfl | rfl <;> rfl
end

/-- A word is determined by its fields. -/
theorem encodeSys_fields (w : InstrWord) (h : fieldOpcode w = opcodeSystem) :
    encodeSys (fieldFunct7 w) (fieldRs2 w) (fieldRs1 w) (fieldFunct3 w) (fieldRd w) = w := by
  apply BitVec.eq_of_getLsbD_eq
  intro i hi
  rw [getLsbD_encodeSys, ← h]
  simp only [fieldOpcode, fieldRd, fieldFunct3, fieldRs1, fieldRs2, fieldFunct7, BitVec.getLsbD_extractLsb']
  grind

/-- A word is determined by its fields. -/
theorem encodeCsr_fields (w : InstrWord) (h : fieldOpcode w = opcodeSystem) :
    encodeCsr (fieldFunct3 w) (fieldRd w) (fieldCsr w) (fieldRs1 w) = w := by
  apply BitVec.eq_of_getLsbD_eq
  intro i hi
  rw [getLsbD_encodeCsr, ← h]
  simp only [fieldOpcode, fieldRd, fieldFunct3, fieldRs1, fieldCsr, BitVec.getLsbD_extractLsb']
  grind

/-- The four bytes of a word make it again. -/
theorem wordOfBytes_bytes (w : InstrWord) :
    wordOfBytes (w.extractLsb' 0 8) (w.extractLsb' 8 8) (w.extractLsb' 16 8) (w.extractLsb' 24 8) = w := by
  apply BitVec.eq_of_getLsbD_eq
  intro i hi
  change BitVec.getLsbD (w := 8 + 8 + 8 + 8) _ i = _
  simp only [wordOfBytes, BitVec.getLsbD_append, BitVec.getLsbD_extractLsb', Nat.sub_sub]
  grind

end Sys2Proof
end

