-- ==== Sys2Proof/Laws/Interrupt.lean ====
section
/-! SUPPORT. Which interrupts can be taken: what `State.interrupt` says once. -/

namespace Sys2Proof.Machine

open Sys2Proof

theorem firstPending_some {global : Bool} {pending : Nat → Bool} {order : List Nat} {i : Nat}
    (h : firstPending global pending order = some i) : global = true ∧ i ∈ order ∧ pending i = true := by
  unfold firstPending at h
  split at h
  · next hg => exact ⟨hg, List.mem_of_find?_eq_some h, List.find?_some h⟩
  · cases h

theorem firstPending_none {global : Bool} {pending : Nat → Bool} {order : List Nat} :
    firstPending global pending order = none ↔ (global = true → ∀ i ∈ order, pending i = false) := by
  unfold firstPending
  split <;> simp_all

/-- An interrupt that is taken is pending and enabled for its target, and nothing is pending for a target before it. -/
theorem State.interrupt_some {s : State} {g : Target} {i : Nat} (h : s.interrupt = some (g, i)) :
    (g = .machine ∧ s.machineGlobal = true ∧ i ∈ machineOrder ∧ s.machinePending i = true) ∨
    (g = .hyper ∧ s.hyperGlobal = true ∧ i ∈ hyperOrder ∧ s.hyperPending i = true ∧
      firstPending s.hyperGlobal s.hyperPending hyperOrder = some i ∧
      firstPending s.machineGlobal s.machinePending machineOrder = none) ∨
    (g = .guest ∧ s.guestGlobal = true ∧ i ∈ guestOrder ∧ s.guestPending i = true ∧
      firstPending s.hyperGlobal s.hyperPending hyperOrder = none ∧
      firstPending s.machineGlobal s.machinePending machineOrder = none) := by
  unfold State.interrupt at h
  split at h
  · next j hj =>
    cases h
    obtain ⟨a, b, c⟩ := firstPending_some hj
    exact .inl ⟨rfl, a, b, c⟩
  · next hm =>
    split at h
    · next j hj =>
      cases h
      obtain ⟨a, b, c⟩ := firstPending_some hj
      exact .inr (.inl ⟨rfl, a, b, c, hj, hm⟩)
    · next hh =>
      split at h
      · next j hj =>
        cases h
        obtain ⟨a, b, c⟩ := firstPending_some hj
        exact .inr (.inr ⟨rfl, a, b, c, hh, hm⟩)
      · cases h

/-- Nothing is taken exactly when nothing is pending for an enabled target. -/
theorem State.interrupt_none {s : State} :
    s.interrupt = none ↔
      firstPending s.machineGlobal s.machinePending machineOrder = none ∧
      firstPending s.hyperGlobal s.hyperPending hyperOrder = none ∧
      firstPending s.guestGlobal s.guestPending guestOrder = none := by
  unfold State.interrupt
  split
  · simp_all
  · split
    · simp_all
    · split <;> simp_all

end Sys2Proof.Machine
end

