-- ==== Sys2Proof/Laws/PerInstr.lean ====
section
/-! SUPPORT. Statements made of every instruction as syntax, one lemma per constructor: the encoder writes a word of the
instruction's own row of the opcode table (30_encoding.md R186 to R188). -/

namespace Sys2Proof.Laws.RowEncoding

open Sys2Proof

/-- The word of an instruction matches its row. -/
def Statement (i : Instr) : Prop := encode i &&& i.rowMask = i.rowMatch

theorem and_of_six {a b c d e f : Nat} (x1 y1 : BitVec a) (x2 y2 : BitVec b) (x3 y3 : BitVec c) (x4 y4 : BitVec d)
    (x5 y5 : BitVec e) (x6 y6 : BitVec f) :
    (x1 ++ x2 ++ x3 ++ x4 ++ x5 ++ x6) &&& (y1 ++ y2 ++ y3 ++ y4 ++ y5 ++ y6) =
      (x1 &&& y1) ++ (x2 &&& y2) ++ (x3 &&& y3) ++ (x4 &&& y4) ++ (x5 &&& y5) ++ (x6 &&& y6) := by
  simp only [BitVec.and_append]

theorem and_of_five {a b c d e : Nat} (x1 y1 : BitVec a) (x2 y2 : BitVec b) (x3 y3 : BitVec c) (x4 y4 : BitVec d)
    (x5 y5 : BitVec e) :
    (x1 ++ x2 ++ x3 ++ x4 ++ x5) &&& (y1 ++ y2 ++ y3 ++ y4 ++ y5) =
      (x1 &&& y1) ++ (x2 &&& y2) ++ (x3 &&& y3) ++ (x4 &&& y4) ++ (x5 &&& y5) := by
  simp only [BitVec.and_append]

/-- The word of a CSR instruction matches its row. -/
theorem csr_row (f3 : BitVec 3) (d : Reg) (c : CsrAddr) (r : BitVec 5) :
    encodeCsr f3 d c r &&& 0x0000707F = encodeCsr f3 0 0 0 := by
  have h := and_of_five c 0 r 0 f3 7#3 d 0 opcodeSystem 127
  have e3 : f3 &&& 7#3 = f3 := BitVec.and_allOnes
  have e7 : opcodeSystem &&& 127#7 = opcodeSystem := rfl
  simp only [e3, e7, BitVec.and_zero, BitVec.ofNat_eq_ofNat] at h
  exact h

/-- The word of a fence or a store matches its row: rs2 and rs1 are operands. -/
theorem two_sources_row (f7 : BitVec 7) (a b : Reg) (f3 : BitVec 3) :
    encodeSys f7 a b f3 0 &&& 0xFE007FFF = encodeSys f7 0 0 f3 0 := by
  have h := and_of_six f7 127#7 a 0 b 0 f3 7#3 (0 : Reg) 31 opcodeSystem 127
  have e0 : f7 &&& 127#7 = f7 := BitVec.and_allOnes
  have e3 : f3 &&& 7#3 = f3 := BitVec.and_allOnes
  have e7 : opcodeSystem &&& 127#7 = opcodeSystem := rfl
  simp only [e0, e3, e7, BitVec.and_zero, BitVec.zero_and, BitVec.ofNat_eq_ofNat] at h
  exact h

/-- The word of a load matches its row: rs1 and rd are operands. -/
theorem load_row (f7 : BitVec 7) (a b d : Reg) (f3 : BitVec 3) :
    encodeSys f7 a b f3 d &&& 0xFFF0707F = encodeSys f7 a 0 f3 0 := by
  have h := and_of_six f7 127#7 a 31#5 b 0 f3 7#3 d 0 opcodeSystem 127
  have e0 : f7 &&& 127#7 = f7 := BitVec.and_allOnes
  have e3 : f3 &&& 7#3 = f3 := BitVec.and_allOnes
  have e5 : a &&& 31#5 = a := BitVec.and_allOnes
  have e7 : opcodeSystem &&& 127#7 = opcodeSystem := rfl
  simp only [e0, e3, e5, e7, BitVec.and_zero, BitVec.ofNat_eq_ofNat] at h
  exact h

theorem csrrw (rd : Reg) (csr : CsrAddr) (rs1 : Reg) : Statement (.csrrw rd csr rs1) := (csr_row _ _ _ _).trans rfl

theorem csrrs (rd : Reg) (csr : CsrAddr) (rs1 : Reg) : Statement (.csrrs rd csr rs1) := (csr_row _ _ _ _).trans rfl

theorem csrrc (rd : Reg) (csr : CsrAddr) (rs1 : Reg) : Statement (.csrrc rd csr rs1) := (csr_row _ _ _ _).trans rfl

theorem csrrwi (rd : Reg) (csr : CsrAddr) (uimm : BitVec 5) : Statement (.csrrwi rd csr uimm) := (csr_row _ _ _ _).trans rfl

theorem csrrsi (rd : Reg) (csr : CsrAddr) (uimm : BitVec 5) : Statement (.csrrsi rd csr uimm) := (csr_row _ _ _ _).trans rfl

theorem csrrci (rd : Reg) (csr : CsrAddr) (uimm : BitVec 5) : Statement (.csrrci rd csr uimm) := (csr_row _ _ _ _).trans rfl

theorem ecall : Statement .ecall := by unfold Statement; decide

theorem ebreak : Statement .ebreak := by unfold Statement; decide

theorem sret : Statement .sret := by unfold Statement; decide

theorem mret : Statement .mret := by unfold Statement; decide

theorem wfi : Statement .wfi := by unfold Statement; decide

theorem sfenceVma (rs1 : Reg) (rs2 : Reg) : Statement (.sfenceVma rs1 rs2) := (two_sources_row _ _ _ _).trans rfl

theorem hfenceVvma (rs1 : Reg) (rs2 : Reg) : Statement (.hfenceVvma rs1 rs2) := (two_sources_row _ _ _ _).trans rfl

theorem hfenceGvma (rs1 : Reg) (rs2 : Reg) : Statement (.hfenceGvma rs1 rs2) := (two_sources_row _ _ _ _).trans rfl

theorem hlvB (rd : Reg) (rs1 : Reg) : Statement (.hlvB rd rs1) := (load_row _ _ _ _ _).trans rfl

theorem hlvBu (rd : Reg) (rs1 : Reg) : Statement (.hlvBu rd rs1) := (load_row _ _ _ _ _).trans rfl

theorem hlvH (rd : Reg) (rs1 : Reg) : Statement (.hlvH rd rs1) := (load_row _ _ _ _ _).trans rfl

theorem hlvHu (rd : Reg) (rs1 : Reg) : Statement (.hlvHu rd rs1) := (load_row _ _ _ _ _).trans rfl

theorem hlvxHu (rd : Reg) (rs1 : Reg) : Statement (.hlvxHu rd rs1) := (load_row _ _ _ _ _).trans rfl

theorem hlvW (rd : Reg) (rs1 : Reg) : Statement (.hlvW rd rs1) := (load_row _ _ _ _ _).trans rfl

theorem hlvWu (rd : Reg) (rs1 : Reg) : Statement (.hlvWu rd rs1) := (load_row _ _ _ _ _).trans rfl

theorem hlvxWu (rd : Reg) (rs1 : Reg) : Statement (.hlvxWu rd rs1) := (load_row _ _ _ _ _).trans rfl

theorem hlvD (rd : Reg) (rs1 : Reg) : Statement (.hlvD rd rs1) := (load_row _ _ _ _ _).trans rfl

theorem hsvB (rs2 : Reg) (rs1 : Reg) : Statement (.hsvB rs2 rs1) := (two_sources_row _ _ _ _).trans rfl

theorem hsvH (rs2 : Reg) (rs1 : Reg) : Statement (.hsvH rs2 rs1) := (two_sources_row _ _ _ _).trans rfl

theorem hsvW (rs2 : Reg) (rs1 : Reg) : Statement (.hsvW rs2 rs1) := (two_sources_row _ _ _ _).trans rfl

theorem hsvD (rs2 : Reg) (rs1 : Reg) : Statement (.hsvD rs2 rs1) := (two_sources_row _ _ _ _).trans rfl

end Sys2Proof.Laws.RowEncoding
end

