-- ==== Sys2Proof/Laws/Regs.lean ====
section
/-! SUPPORT. General registers after a write, and the bytes of a value in either byte order. -/

namespace Sys2Proof.Machine

open Sys2Proof

@[simp] theorem State.x_zero (s : State) : s.x 0 = 0 := rfl

/-- A write to x0 is discarded. -/
@[simp] theorem State.setX_zero (s : State) (w : Word) : s.setX 0 w = s := rfl

theorem State.x_congr {s t : State} (r : Reg) (hr : t.regs = s.regs) (hx : t.xlen = s.xlen) : t.x r = s.x r := by
  unfold State.x; rw [hr, hx]

@[simp] theorem State.setX_xlen (s : State) (r : Reg) (w : Word) : (s.setX r w).xlen = s.xlen := rfl

@[simp] theorem State.advance_xlen (s : State) : s.advance.xlen = s.xlen := rfl

theorem State.setX_regs_of_ne (s : State) (r : Reg) (w : Word) (h : r ≠ 0) :
    (s.setX r w).regs = s.regs.set r.toNat (s.regImage w) := if_neg h

/-- A write leaves every other register as it was. -/
theorem State.setX_regs_ne (s : State) (r q : Reg) (w : Word) (h : q ≠ r) :
    (s.setX r w).regs[q.toNat] = s.regs[q.toNat] := by
  have hn : r.toNat ≠ q.toNat := fun e => h (BitVec.eq_of_toNat_eq e.symm)
  by_cases h0 : r = 0
  · subst h0; rfl
  · rw [State.setX_regs_of_ne _ _ _ h0]; simp [hn]

theorem State.x_setX_ne (s : State) (r q : Reg) (w : Word) (h : q ≠ r) : (s.setX r w).x q = s.x q := by
  unfold State.x; rw [State.setX_regs_ne _ _ _ _ h]; rfl

theorem fit_regImage (s : State) (w : Word) : fit s.xlen (s.regImage w) = fit s.xlen w := by
  unfold State.regImage
  split
  · rfl
  · next h1 h2 => rw [h1]; simp
  · next h1 h2 =>
    rw [h1]
    apply word_eq_of_bits
    intro i _
    simp only [bit_fit, Xlen.bits]
    by_cases h : i < 32
    · have key := BitVec.getLsbD_append (x := Config.upperOfReg s.tick) (y := w.setWidth 32) (i := i)
      rw [if_pos h] at key
      simp only [bit, h, decide_true, Bool.and_true]
      exact key.trans (by simp [h])
    · simp [h]

/-- A register written reads as the value written, at the current width. -/
theorem State.x_setX_self (s : State) (r : Reg) (w : Word) (h : r ≠ 0) : (s.setX r w).x r = fit s.xlen w := by
  rw [State.x, if_neg h, State.setX_regs_of_ne _ _ _ h]
  simp [fit_regImage]

/-! ## Bytes of a value -/

theorem lowBytes_length (n : Nat) (w : Word) : (lowBytes n w).length = n := by
  induction n generalizing w with
  | zero => rfl
  | succ n ih => simp [lowBytes, ih]

@[simp] theorem bytesOfValue_length (be : Bool) (n : Nat) (w : Word) : (bytesOfValue be n w).length = n := by
  cases be <;> simp [bytesOfValue, lowBytes_length]

theorem natOfBytes_lowBytes (n : Nat) (w : Word) : natOfBytes (lowBytes n w) = w.toNat % 2 ^ (8 * n) := by
  induction n generalizing w with
  | zero => simp [lowBytes, natOfBytes, Nat.mod_one]
  | succ n ih =>
    rw [lowBytes, natOfBytes, ih, Nat.mul_succ, Nat.add_comm (8 * n) 8, Nat.pow_add, Nat.mod_mul]
    simp [Nat.shiftRight_eq_div_pow]

/-- Bytes laid out in an order and read back in it give the low bytes of the value. -/
theorem valueOfBytes_bytesOfValue (be : Bool) (n : Nat) (w : Word) :
    valueOfBytes be (bytesOfValue be n w) = BitVec.ofNat 64 (w.toNat % 2 ^ (8 * n)) := by
  cases be <;> simp [valueOfBytes, bytesOfValue, natOfBytes_lowBytes]

end Sys2Proof.Machine
end

