-- ==== Sys2Proof/Laws/Trap.lean ====
section
/-! SUPPORT. What taking a trap and returning from one leave in the status registers, bit by bit, and where control
goes. -/

namespace Sys2Proof.Machine

open Sys2Proof

/-! ## Status words -/

theorem bit_enterStatus (w : Word) (spp : Bool) (i : Nat) :
    bit (enterStatus w spp) i = if i = 8 then spp else if i = 1 then false else if i = 5 then bit w 1 else bit w i := by
  simp [enterStatus, bit_setBit]

theorem bit_leaveStatus (w : Word) (i : Nat) :
    bit (leaveStatus w) i = if i = 8 then false else if i = 5 then true else if i = 1 then bit w 5 else bit w i := by
  simp [leaveStatus, bit_setBit]

theorem State.bit_hstatusOfEntry (s : State) (t : Trap) (i : Nat) :
    bit (s.hstatusOfEntry t) i =
      if i = 6 then t.tvalIsGva else if i = 8 ∧ s.v = true then s.priv == .s else if i = 7 then s.v
      else bit s.hyp.hstatus i := by
  unfold State.hstatusOfEntry
  by_cases hv : s.v = true <;> simp [hv, bit_setBit]

theorem State.bit_mstatusOfEntry (s : State) (t : Trap) (i : Nat) :
    bit (s.mstatusOfEntry t) i =
      if i = 3 then false else if i = 7 then bit s.mach.mstatus 3
      else if 11 ≤ i ∧ i < 13 then s.priv.code.testBit (i - 11)
      else if i = 38 then t.tvalIsGva else if i = 39 then s.v else bit s.mach.mstatus i := by
  simp [State.mstatusOfEntry, bit_setBit, bit_setField]

/-! ## Where control goes -/

theorem bit_trapVector_low (x : Xlen) (tvec : Word) (isInt : Bool) (code : Nat) (i : Nat) (h : i < 2) :
    bit (trapVector x tvec isInt code) i = false := by
  have hb : ∀ j, j < 2 → bit (merge 0x3 0 tvec) j = false := by
    intro j hj
    rw [bit_merge]
    have : j = 0 ∨ j = 1 := by omega
    rcases this with rfl | rfl <;> simp [bit]
  have key : ∀ w : Word, (∀ j, j < 2 → bit w j = false) → w.toNat % 4 = 0 := by
    intro w hw
    have h2 : field w 0 2 = 0 := by
      apply Nat.eq_of_testBit_eq
      intro j
      rw [testBit_field]
      by_cases hj : j < 2
      · simp [hj, hw j hj]
      · simp [hj]
    simpa [field] using h2
  have back : ∀ w : Word, w.toNat % 4 = 0 → ∀ j, j < 2 → bit w j = false := by
    intro w hw j hj
    have h2 : field w 0 2 = 0 := by simpa [field] using hw
    have := testBit_field w 0 2 j
    rw [h2] at this
    simpa [hj] using this.symm
  unfold trapVector
  dsimp only
  rw [bit_fit]
  split
  · rw [back _ _ i h]
    · simp
    · have h1 := key _ hb
      rw [BitVec.toNat_add, BitVec.toNat_ofNat]
      omega
  · rw [hb i h]; simp

/-! ## Targets -/

/-- A trap is taken into one of three modes; only from V = 1 into VS-mode. -/
theorem State.exceptionTarget_guest {s : State} {c : Nat} (h : s.exceptionTarget c = .guest) :
    s.v = true ∧ bit s.hedelegBits c = true ∧ bit s.medelegBits c = true ∧ s.priv ≠ .m := by
  unfold State.exceptionTarget at h
  split at h
  · cases h
  · next h1 =>
    split at h
    · next h2 =>
      refine ⟨h2.1, h2.2, ?_, fun e => h1 (.inl e)⟩
      cases hb : bit s.medelegBits c
      · exact absurd (.inr hb) h1
      · rfl
    · cases h

/-- What taking a trap can do: the three entries. -/
theorem State.enter_cases (s : State) (g : Target) (t : Trap) (epc : Word) :
    (g = .machine ∧ s.enter g t epc = s.enterMachine t epc) ∨ (g = .hyper ∧ s.enter g t epc = s.enterHyper t epc) ∨
      (g = .guest ∧ s.enter g t epc = s.enterGuest t epc) := by
  cases g <;> simp [State.enter]

/-- The virtualization mode after a trap. -/
theorem State.enter_v (s : State) (g : Target) (t : Trap) (epc : Word) :
    (s.enter g t epc).v = (s.v && g == .guest) := by
  cases g <;> simp [State.enter, State.enterMachine, State.enterHyper, State.enterGuest] <;> rfl

/-- The privilege after a trap. -/
theorem State.enter_priv (s : State) (g : Target) (t : Trap) (epc : Word) :
    (s.enter g t epc).priv = if g = .machine then .m else .s := by
  cases g <;> rfl

end Sys2Proof.Machine
end

