-- ==== Sys2Proof/Tests/Slice0.lean ====
section
/-! SUPPORT. Tests of the model: the well-formedness check, every row's word written out from 30_encoding.md, one step or one
operation on small states with the results 95_test_vectors.md gives, and for every statement with hypotheses a state that
meets them (`witness_…`). -/

namespace Sys2Proof.Tests

open Sys2Proof Sys2Proof.Machine

/-! ## Helpers -/

/-- What a next state shows. -/
def see {α : Type} (f : State → α) : Host.Outcome State Fault Refusal → Option α
  | .next s => some (f s)
  | .fault _ => none
  | .refused _ => none

/-- A hart in a mode with the setup of 95_test_vectors.md: everything that may go to HS-mode does, the first three counters
enabled for S, x5 all ones, x7 = 0x80, x11 an address of guest memory, x12 data. -/
def hart (v : Bool) (p : Priv) : State :=
  let s := State.reset
  let regs := (((s.regs.set 5 0xFFFFFFFFFFFFFFFF).set 7 0x80).set 11 0x80400000).set 12 0x11223344AABBCCDD
  let mach := { s.mach with medeleg := 0xF0B7FF, mideleg := 0x1666, mcounteren := 7 }
  { s with regs := regs, v := v, priv := p, mach := mach }

/-- HS-mode. -/
def hs : State := hart false .s

/-- VS-mode. -/
def vs : State := hart true .s

/-- M-mode. -/
def mm : State := hart false .m

/-- With a value of `hstatus` besides VSXL = 2. -/
def withHstatus (w : Word) (s : State) : State := s.setHyp { s.hyp with hstatus := 0x200000000 ||| w }

/-- With a value of `mstatus`. -/
def withMstatus (w : Word) (s : State) : State := s.setMach { s.mach with mstatus := 0x200000000 ||| w }

/-- With `hvip`, `hie` and `hideleg`. -/
def withVirtual (hvip hie hideleg : Word) (s : State) : State :=
  (s.setHyp { s.hyp with hvip := hvip, hideleg := hideleg }).setMach { s.mach with mie := hie }

/-- With an `hgatp`. -/
def withHgatp (w : Word) (s : State) : State := s.setHyp { s.hyp with hgatp := w }

/-- With the guest memory of 95_test_vectors.md 2.5. -/
def withGuestBytes (s : State) : State :=
  { s with mem := [(0x80400000, 0x80), (0x80400001, 0xFF), (0x80400002, 0x34), (0x80400003, 0x12), (0x80400004, 0x78),
    (0x80400005, 0x56), (0x80400006, 0x34), (0x80400007, 0x12)] }

/-- A 32-bit hart. -/
def narrow (s : State) : State :=
  { s with cfg := { s.cfg with hsxlen := .x32, hgatpModes := [0, 1], vsatpModes := [0, 1], paBits := 34 } }

/-- SPVP = 1 and the guest bytes, in HS-mode. -/
def guestReader : State := withGuestBytes (withHstatus 0x100 hs)

/-- HS-mode with Sv39x4 and no table in memory. -/
def paged : State := withHgatp 0x8000000000000004 (withHstatus 0x100 hs)

/-- HS-mode with an entry at 0x80000000 that grants everything to user-level accesses. -/
def withLeaf : State := { hs with mem := [(0x80000000, 0xDF)] }

/-- Sv39 (10_state.md R127). -/
def sv39 : Scheme := ⟨3, 9, 8, false⟩

/-- Sv39x4 (10_state.md R99). -/
def sv39x4 : Scheme := ⟨3, 9, 8, true⟩

/-! ## Well-formedness (30_encoding.md R189) -/

theorem test_hlvWu_needs_64_bits : (Instr.hlvWu 10 11).wellFormed .x32 = false := by decide
theorem test_hlvD_needs_64_bits : (Instr.hlvD 10 11).wellFormed .x32 = false := by decide
theorem test_hsvD_needs_64_bits : (Instr.hsvD 12 11).wellFormed .x32 = false := by decide
theorem test_hlvW_is_wellFormed : (Instr.hlvW 10 11).wellFormed .x32 = true := by decide
theorem test_hlvD_is_wellFormed_at_64 : (Instr.hlvD 10 11).wellFormed .x64 = true := by decide

/-! ## Words written out field by field from 30_encoding.md R181, R182, R186 to R188 -/

theorem test_decode_csrrw : decodeTableWord 32 0b011001000101_00111_001_00000_1110011 = some (.csrrw 0 0x645 7) := by decide
theorem test_decode_csrrs : decodeTableWord 32 0b000100000000_00000_010_01010_1110011 = some (.csrrs 10 0x100 0) := by decide
theorem test_decode_csrrc : decodeTableWord 32 0b011001000101_00101_011_00000_1110011 = some (.csrrc 0 0x645 5) := by decide
theorem test_decode_csrrwi : decodeTableWord 32 0b011001000101_00100_101_00000_1110011 = some (.csrrwi 0 0x645 4) := by decide
theorem test_decode_csrrsi : decodeTableWord 32 0b011001000101_00100_110_00000_1110011 = some (.csrrsi 0 0x645 4) := by decide
theorem test_decode_csrrci : decodeTableWord 32 0b011001000100_00100_111_00000_1110011 = some (.csrrci 0 0x644 4) := by decide
theorem test_decode_ecall : decodeTableWord 32 0b0000000_00000_00000_000_00000_1110011 = some .ecall := by decide
theorem test_decode_ebreak : decodeTableWord 32 0b0000000_00001_00000_000_00000_1110011 = some .ebreak := by decide
theorem test_decode_sret : decodeTableWord 32 0b0001000_00010_00000_000_00000_1110011 = some .sret := by decide
theorem test_decode_mret : decodeTableWord 32 0b0011000_00010_00000_000_00000_1110011 = some .mret := by decide
theorem test_decode_wfi : decodeTableWord 32 0b0001000_00101_00000_000_00000_1110011 = some .wfi := by decide
theorem test_decode_sfenceVma : decodeTableWord 32 0b0001001_00110_00101_000_00000_1110011 = some (.sfenceVma 5 6) := by decide
theorem test_decode_hfenceVvma : decodeTableWord 32 0b0010001_00110_00101_000_00000_1110011 = some (.hfenceVvma 5 6) := by decide
theorem test_decode_hfenceGvma : decodeTableWord 32 0b0110001_00110_00101_000_00000_1110011 = some (.hfenceGvma 5 6) := by decide
theorem test_decode_hlvB : decodeTableWord 32 0b0110000_00000_01011_100_01010_1110011 = some (.hlvB 10 11) := by decide
theorem test_decode_hlvBu : decodeTableWord 32 0b0110000_00001_01011_100_01010_1110011 = some (.hlvBu 10 11) := by decide
theorem test_decode_hlvH : decodeTableWord 32 0b0110010_00000_01011_100_01010_1110011 = some (.hlvH 10 11) := by decide
theorem test_decode_hlvHu : decodeTableWord 32 0b0110010_00001_01011_100_01101_1110011 = some (.hlvHu 13 11) := by decide
theorem test_decode_hlvxHu : decodeTableWord 32 0b0110010_00011_01011_100_01010_1110011 = some (.hlvxHu 10 11) := by decide
theorem test_decode_hlvW : decodeTableWord 32 0b0110100_00000_01011_100_01110_1110011 = some (.hlvW 14 11) := by decide
theorem test_decode_hlvWu : decodeTableWord 32 0b0110100_00001_01011_100_01111_1110011 = some (.hlvWu 15 11) := by decide
theorem test_decode_hlvxWu : decodeTableWord 32 0b0110100_00011_01011_100_01010_1110011 = some (.hlvxWu 10 11) := by decide
theorem test_decode_hlvD : decodeTableWord 32 0b0110110_00000_01011_100_01010_1110011 = some (.hlvD 10 11) := by decide
theorem test_decode_hsvB : decodeTableWord 32 0b0110001_01100_01011_100_00000_1110011 = some (.hsvB 12 11) := by decide
theorem test_decode_hsvH : decodeTableWord 32 0b0110011_01100_01011_100_00000_1110011 = some (.hsvH 12 11) := by decide
theorem test_decode_hsvW : decodeTableWord 32 0b0110101_01100_01011_100_00000_1110011 = some (.hsvW 12 11) := by decide
theorem test_decode_hsvD : decodeTableWord 32 0b0110111_01100_01011_100_00000_1110011 = some (.hsvD 12 11) := by decide

/-- HLVX.HU with rs2 = 2 is no row (R188). -/
theorem test_decode_reserved : decode 0b0110010_00010_01011_100_01010_1110011 = .error .reservedSystem := by rfl
/-- The table's word numbering: the low 32 bits, higher ones zero. -/
theorem test_decodeTableWord : decodeTableWord 32 0x6AC5C073 = some (.hsvW 12 11) := by decide
theorem test_decodeTableWord_none : decodeTableWord 32 0x00000013 = none := by decide
theorem test_decodeBytes_rest : decodeBytes [0x73, 0x90, 0x52, 0x60, 0xAA] = .ok (.csrrw 0 0x605 5, [0xAA]) := by rfl

/-! ## CSR instructions (95_test_vectors.md 2.1, 2.2) -/

/-- CW4. -/
theorem test_csrrw_hvip_mask : see (fun t => t.readCsr .hvip) (exec (.csrrw 0 0x645 5) hs) = some 0x444 := by decide
/-- CW1. -/
theorem test_csrrw_hedeleg_mask : see (fun t => t.readCsr .hedeleg) (exec (.csrrw 0 0x602 5) hs) = some 0xB1FE := by decide
/-- CV11: a read-only address is read with rs1 = x0. -/
theorem test_csrrs_hgeip :
    see (fun t => t.x 10) (exec (.csrrs 10 0xE12 0) { hs with plat := { hs.plat with hgeipIn := 4 } }) = some 4 := by decide
/-- CV12: with rs1 not x0 the same read is illegal (code 2). -/
theorem test_csrrs_hgeip_write_is_illegal : see (fun t => t.sup.scause) (exec (.csrrs 10 0xE12 6) hs) = some 2 := by decide
/-- CW19. -/
theorem test_csrrc_hvip : see (fun t => t.readCsr .hvip)
    (exec (.csrrc 0 0x645 8) { withVirtual 0x444 0 0 hs with regs := hs.regs.set 8 4 }) = some 0x440 := by decide
/-- CW18. -/
theorem test_csrrwi_hvip : see (fun t => t.readCsr .hvip) (exec (.csrrwi 0 0x645 4) (withVirtual 0x440 0 0 hs)) = some 4 := by
  decide
/-- P3 step 3. -/
theorem test_csrrsi_hvip : see (fun t => t.readCsr .hvip) (exec (.csrrsi 0 0x645 4) (withVirtual 0x440 0 0 hs)) = some 0x444 := by
  decide
/-- CW20: bit 2 of `hip` is that of `hvip`; the others are not written. -/
theorem test_csrrci_hip : see (fun t => t.readCsr .hvip) (exec (.csrrci 0 0x644 4) (withVirtual 0x444 0 0 hs)) = some 0x440 := by
  decide
/-- CV9: the virtual instruction exception, and `hvip` unchanged. -/
theorem test_hvip_from_guest :
    see (fun t => (t.sup.scause, t.readCsr .hvip, t.spv)) (exec (.csrrw 0 0x645 7) vs) = some (22, 0, true) := by decide
/-- CW12. -/
theorem test_hgatp_write : see (fun t => t.readCsr .hgatp)
    (exec (.csrrw 0 0x680 8) { hs with regs := hs.regs.set 8 0x8FFFF00000000007 }) = some 0x8007F00000000004 := by decide
/-- CW14, CW15. -/
theorem test_vstvec_and_vsepc : see (fun t => t.vs.vstvec) (exec (.csrrw 0 0x205 5) hs) = some 0xFFFFFFFFFFFFFFFD ∧
    see (fun t => t.vs.vsepc) (exec (.csrrw 0 0x241 5) hs) = some 0xFFFFFFFFFFFFFFFE := by decide
/-- CW17: an illegal VGEIN is refused (00_scope.md R12). -/
theorem test_vgein_refused : hs.writeCsr .hstatus 0x4000 = .error (.wlrlIllegalValue "hstatus.VGEIN") := by rfl
/-- A code 60_exceptions.md R320 does not list, in `scause`: the write completes (log 11). -/
theorem test_scause_unlisted_code_completes : see (fun t => t.pc) (exec (.csrrw 0 0x142 7) hs) = some 0x80000004 := by decide
/-- CV22, first half: HS-mode writes its own `sscratch`. -/
theorem test_sscratch_is_replicated : see (fun t => (t.sup.sscratch, t.vs.vsscratch)) (exec (.csrrw 0 0x140 7) hs) =
    some (0x80, 0) ∧ see (fun t => (t.sup.sscratch, t.vs.vsscratch)) (exec (.csrrw 0 0x140 7) vs) = some (0, 0x80) := by decide
/-- TM9. -/
theorem test_time_offset : see (fun t => t.x 10) (exec (.csrrs 10 0xC01 0)
    { vs with counters := vs.counters.set 1 0x1000,
              hyp := { vs.hyp with hcounteren := 2, htimedelta := 0xFFFFFFFFFFFFFF00 } }) = some 0xF00 := by decide
/-- AL1. -/
theorem test_hip_and_vsip : (withVirtual 0x444 0 4 hs).readCsr .hip = 0x444 ∧ (withVirtual 0x444 0 4 hs).readCsr .vsip = 2 := by
  decide
/-- AL8. -/
theorem test_hip_with_vgein :
    State.readCsr { withHstatus 0x2000 hs with plat := { hs.plat with hgeipIn := 4 }, hyp := { hs.hyp with hgeie := 4, hstatus := 0x200002000 } } .hip = 0x1400 := by
  decide

/-! ## The privileged group (95_test_vectors.md 2.6 to 2.9) -/

/-- P1 step 8: ECALL from VS-mode goes to HS-mode with code 10. -/
theorem test_ecall_from_guest :
    see (fun t => (t.sup.scause, t.sup.sepc, t.readCsr .hstatus)) (exec .ecall vs) = some (10, 0x80000000, 0x200000180) := by decide
/-- EX12: EBREAK with `hedeleg[3]` stays in the guest. -/
theorem test_ebreak_in_guest :
    see (fun t => (t.v, t.vs.vscause, t.vs.vsepc)) (exec .ebreak (vs.setHyp { vs.hyp with hedeleg := 8 })) =
      some (true, 3, 0x80000000) := by decide
/-- SR4. -/
theorem test_sret_to_guest :
    see (fun t => (t.v, t.priv, t.sie, t.spie, t.spp, t.spv)) (exec .sret (withMstatus 0x120 (withHstatus 0x80 hs))) =
      some (true, .s, true, true, false, false) := by decide
/-- P3 step 10. -/
theorem test_sret_in_guest :
    see (fun t => (t.v, t.priv, t.pc, t.readCsr .vsstatus)) (exec .sret
      (vs.setVs { vs.vs with vsstatus := 0x200000120, vsepc := 0x80200000 })) = some (true, .s, 0x80200000, 0x200000022) := by decide
/-- 60_exceptions.md R358: MRET with MPP = S and MPV = 1 enters VS-mode. -/
theorem test_mret_to_guest :
    see (fun t => (t.v, t.priv, t.mstatusMpp, t.mstatusMpv)) (exec .mret (withMstatus 0x8000000880 mm)) =
      some (true, .s, 0, false) := by decide
/-- FW6. -/
theorem test_wfi_completes : see (fun t => t.pc) (exec .wfi hs) = some 0x80000004 := by decide
/-- FW9. -/
theorem test_sfenceVma_from_vu : see (fun t => t.sup.scause) (exec (.sfenceVma 0 0) (hart true .u)) = some 22 := by decide
/-- FW13, and FW14 for the same word. -/
theorem test_hfenceVvma_barred : see (fun t => t.sup.scause) (exec (.hfenceVvma 0 0) vs) = some 22 ∧
    see (fun t => t.sup.scause) (exec (.hfenceVvma 0 0) (hart false .u)) = some 2 := by decide
/-- FW11: the address operand is shifted left by 2; a VS-stage copy goes with the page it was read from (log 40). -/
theorem test_hfenceGvma_scope :
    see (fun t => t.tlb.map fun e => e.key.page) (exec (.hfenceGvma 7 0)
      { hs with regs := hs.regs.set 7 0x400, tlb := [⟨⟨.gStage, 0, 0, 1, 0⟩, 1, 9⟩, ⟨⟨.gStage, 0, 0, 2, 0⟩, 1, 1⟩, ⟨⟨.vsStage, 0, 0, 3, 0⟩, 1, 1⟩, ⟨⟨.vsStage, 0, 0, 4, 0⟩, 1, 2⟩] }) =
    some [2, 4] := by decide

/-! ## Virtual-machine loads and stores (95_test_vectors.md 2.5) -/

/-- LS1, LS2. -/
theorem test_hlvB : see (fun t => t.x 10) (exec (.hlvB 10 11) guestReader) = some 0xFFFFFFFFFFFFFF80 := by decide
theorem test_hlvBu : see (fun t => t.x 10) (exec (.hlvBu 10 11) guestReader) = some 0x80 := by decide
/-- LS3. -/
theorem test_hlvH : see (fun t => t.x 10) (exec (.hlvH 10 11) guestReader) = some 0xFFFFFFFFFFFFFF80 := by decide
/-- LS4: big-endian with VSBE = 1. -/
theorem test_hlvH_big_endian :
    see (fun t => t.x 10) (exec (.hlvH 10 11) (withHstatus 0x120 guestReader)) = some 0xFFFFFFFFFFFF80FF := by decide
/-- LS5. -/
theorem test_hlvHu : see (fun t => t.x 13) (exec (.hlvHu 13 11) guestReader) = some 0xFF80 := by decide
/-- LS10, Bare. -/
theorem test_hlvxHu : see (fun t => t.x 10) (exec (.hlvxHu 10 11) guestReader) = some 0xFF80 := by decide
/-- LS6. -/
theorem test_hlvW : see (fun t => t.x 14) (exec (.hlvW 14 11) guestReader) = some 0x1234FF80 := by decide
/-- LS7. -/
theorem test_hlvWu : see (fun t => t.x 15) (exec (.hlvWu 15 11) guestReader) = some 0x1234FF80 := by decide
/-- LS11. -/
theorem test_hlvxWu : see (fun t => t.x 10) (exec (.hlvxWu 10 11) guestReader) = some 0x1234FF80 := by decide
/-- LS8. -/
theorem test_hlvD : see (fun t => t.x 10) (exec (.hlvD 10 11) guestReader) = some 0x123456781234FF80 := by decide
/-- LS12. -/
theorem test_hsvB : see (fun t => t.memRead [0x80400000, 0x80400001]) (exec (.hsvB 12 11) guestReader) = some [0xDD, 0xFF] := by
  decide
/-- LS13. -/
theorem test_hsvH : see (fun t => t.memRead (addrsFrom 0x80400000 3)) (exec (.hsvH 12 11) guestReader) =
    some [0xDD, 0xCC, 0x34] := by decide
/-- LS14. -/
theorem test_hsvW : see (fun t => t.memRead (addrsFrom 0x80400000 5)) (exec (.hsvW 12 11) guestReader) =
    some [0xDD, 0xCC, 0xBB, 0xAA, 0x78] := by decide
/-- LS16. -/
theorem test_hsvD : see (fun t => t.memRead (addrsFrom 0x80400000 8)) (exec (.hsvD 12 11) guestReader) =
    some [0xDD, 0xCC, 0xBB, 0xAA, 0x44, 0x33, 0x22, 0x11] := by decide
/-- LS22: misaligned. -/
theorem test_hlvH_misaligned :
    see (fun t => (t.sup.scause, t.sup.stval, t.spv, t.gva)) (exec (.hlvH 17 16)
      { guestReader with regs := guestReader.regs.set 16 0x80400001 }) = some (4, 0x80400001, false, true) := by decide
/-- LS23: no valid G-stage entry. -/
theorem test_hlvW_guest_page_fault :
    see (fun t => (t.sup.scause, t.sup.stval, t.spv, t.gva, t.spvp)) (exec (.hlvW 14 16)
      { paged with regs := paged.regs.set 16 0x12345678 }) = some (21, 0x12345678, false, true, true) := by decide
/-- LS24. -/
theorem test_hsvW_guest_page_fault :
    see (fun t => t.sup.scause) (exec (.hsvW 14 16) { paged with regs := paged.regs.set 16 0x12345678 }) = some 23 := by decide

/-! ## Steps and interrupts -/

/-- The decoded instruction runs at the reset pc. -/
theorem test_step_runs_the_word : see (fun t => t.pc) (step (State.reset.withFetchWord 32 0x10500073)) = some 0x80000004 := by decide
/-- A word of an opcode the spec gives no instruction is illegal (93 U24); one of the base ISA is out of scope. -/
theorem test_unknown_word_is_illegal :
    see (fun t => t.mach.mcause) (step (State.reset.withFetchWord 32 0x0000000B)) = some 2 ∧
      step (State.reset.withFetchWord 32 0x00000013) = .refused (.outOfScope 0x13) := ⟨by decide, by rfl⟩
/-- IN3: VSEI before VSSI and VSTI, code not translated. -/
theorem test_interrupt_into_hs :
    (withMstatus 2 (withVirtual 0x444 0x444 0 hs)).interrupt = some (.hyper, 10) := by decide
/-- IN7: the guest sees code 9. -/
theorem test_interrupt_into_guest :
    (State.takeInterrupt (withVirtual 0x400 0x400 0x400 vs) .guest 10).vs.vscause = 0x8000000000000009 := by decide
/-- IN13. -/
theorem test_no_hs_interrupt_in_m_mode : (withMstatus 2 (withVirtual 0x444 0x444 0 mm)).interrupt = none := by decide

/-! ## A state and operands that meet the hypotheses of each statement -/

/-- An answer with a next state. -/
def runsOn (o : Host.Outcome State Fault Refusal) : Bool := (see (fun _ => ()) o).isSome

theorem next_of_runsOn {o : Host.Outcome State Fault Refusal} (h : runsOn o = true) : ∃ t, o = .next t := by
  cases o with
  | next t => exact ⟨t, rfl⟩
  | fault r => cases h
  | refused r => cases h

/-- A step whose next state shows a value. -/
theorem next_of_see {α : Type} {f : State → α} {o : Host.Outcome State Fault Refusal} {a : α} (h : see f o = some a) :
    ∃ t, o = .next t ∧ f t = a := by
  cases o with
  | next t => exact ⟨t, rfl, by simpa [see] using h⟩
  | fault r => cases h
  | refused r => cases h

theorem witness_DecodingIsMaskAndMatch :
    decode 0xE122A573 = .ok (.csrrs 10 0xE12 5) ∧ (0x62C5C073 : InstrWord) &&& (Instr.hsvB 0 0).rowMask = (Instr.hsvB 0 0).rowMatch :=
  ⟨rfl, by decide⟩

theorem witness_UnmatchedSystemWordIsIllegal :
    ∃ (s s' : State) (w : InstrWord), s.interrupt = none ∧ s.fetch = .word w s' ∧ w.extractLsb' 0 7 = 0b1110011 ∧
      ∀ i : Instr, w &&& i.rowMask ≠ i.rowMatch :=
  ⟨hs.withFetchWord 32 0x6425C573, _, 0x6425C573, by decide, rfl, by decide, fun i => by
    cases i <;> (simp only [Instr.rowMask, Instr.rowMatch]; decide)⟩

theorem witness_StepRunsTheDecodedInstruction :
    ∃ (s s' : State) (w : InstrWord), s.interrupt = none ∧ s.fetch = .word w s' ∧ decode w = .ok (.hlvB 10 11) :=
  ⟨guestReader.withFetchWord 32 0x6005C573, _, 0x6005C573, by decide, rfl, rfl⟩

/-- MRET at the reset pc. -/
theorem witness_MachineModeStepRunsTheBytesAtPc :
    let s := State.reset.withFetchWord 32 0x30200073
    s.interrupt = none ∧ s.priv = .m ∧ s.v = false ∧ s.pc.toNat % ialignBytes s.cfg.ialign = 0 ∧
      s.pc.toNat + 4 ≤ 2 ^ s.cfg.hsxlen.bits ∧
      (∀ a ∈ addrsFrom s.pc.toNat 4, isMemory s.cfg a = true ∧ a ∉ s.storedTo) ∧
      s.memRead (addrsFrom s.pc.toNat 4) = bytesOfWord (encode .mret) :=
  ⟨by decide, rfl, rfl, by decide, by decide, by decide, by decide⟩

theorem witness_InterruptIsTakenBeforeTheInstruction :
    (withVirtual 0x400 0x400 0x400 (vs.setVs { vs.vs with vsstatus := 2 })).interrupt = some (.guest, 10) := by decide

theorem witness_StepKeepsParametersAndTimeRises : ∃ t, step (State.reset.withFetchWord 32 0x10500073) = .next t :=
  next_of_runsOn (by decide)

/-- VGEIN above GEILEN is the refused write, VGEIN at GEILEN one that is not. -/
theorem witness_TableInstructionsStopOnlyOnRefusedCsrWrites :
    csrOperand .ecall = none ∧
    (let s := { hs with regs := (hs.regs.set 8 0x4000).set 9 0x3000 }
     csrOperand (.csrrw 0 0x600 8) = some (0x600, true) ∧ s.resolveCsr 0x600 true = .ok .hstatus ∧
      s.refusesWrite .hstatus (s.csrNewValue (s.readCsr .hstatus) (.csrrw 0 0x600 8)) ∧
      ¬ s.refusesWrite .hstatus (s.csrNewValue (s.readCsr .hstatus) (.csrrw 0 0x600 9))) :=
  ⟨rfl, rfl, rfl, .inl ⟨rfl, by decide, by decide⟩, by
    rintro (⟨-, -, h⟩ | ⟨h, -⟩ | ⟨h, -⟩)
    · exact absurd h (by decide)
    · cases h
    · cases h⟩

theorem witness_FetchAfterStoreFaults :
    let s := { State.reset with storedTo := [0x80000001] }
    s.interrupt = none ∧ s.priv = .m ∧ s.v = false ∧ s.pc.toNat % ialignBytes s.cfg.ialign = 0 ∧
      (∀ a ∈ addrsFrom s.pc.toNat 2, isMemory s.cfg a = true) ∧ ∃ a ∈ addrsFrom s.pc.toNat 2, a ∈ s.storedTo := by decide

theorem witness_State_sound : State.reset.sound := by
  refine ⟨fun _ => rfl, rfl, ?_, ?_, ?_⟩
  · exact ⟨by decide, by decide, by decide, by decide, by decide, by decide, by decide⟩
  · exact ⟨by decide, by decide, by decide, by decide, by decide, fun _ => by decide, by decide⟩
  · exact ⟨by decide, by decide⟩

/-- The five invariants' hypotheses, on one step that returns into the guest. -/
theorem witness_EveryStepKeeps :
    ∃ s t : State, s.modeLegal ∧ s.memCanonical ∧ s.controlAligned ∧ s.fieldsLegal ∧ s.causesLegal ∧ step s = .next t :=
  have h := next_of_runsOn (o := step (State.reset.withFetchWord 32 0x30200073)) (by decide)
  ⟨State.reset.withFetchWord 32 0x30200073, h.choose, fun _ => rfl, rfl,
    ⟨by decide, by decide, by decide, by decide, by decide, by decide, by decide⟩,
    ⟨by decide, by decide, by decide, by decide, by decide, fun _ => by decide, by decide⟩, ⟨by decide, by decide⟩,
    h.choose_spec⟩

theorem witness_ResetStateMeetsTheInvariants : Config.default.valid = true := by decide

theorem witness_OnlyReturnsEnterTheGuestAndOnlyTrapsLeaveIt :
    (∃ s t, step s = .next t ∧ s.v = false ∧ t.v = true) ∧
    (∃ s t, step s = .next t ∧ s.v = true ∧ t.v = false ∧ s.priv ≠ .m) ∧
    (∃ s : State, s.v = true ∧ s.sretBar = none) := by
  have h1 : ∃ t, step ((withHstatus 0x80 hs).withFetchWord 32 0x10200073) = .next t ∧ t.v = true := next_of_see (by decide)
  have h2 : ∃ t, step (vs.withFetchWord 32 0x73) = .next t ∧ t.v = false := next_of_see (by decide)
  obtain ⟨t, h, k⟩ := h1
  obtain ⟨t', h', k'⟩ := h2
  exact ⟨⟨_, t, h, rfl, k⟩, ⟨_, t', h', rfl, k', by decide⟩, ⟨vs, rfl, by decide⟩⟩

theorem witness_TrapIntoVsModeWritesItsRegisters :
    ∃ (s : State) (t : Trap), s.v = true ∧ t.isInt = true ∧ (t.code = 10 ∨ t.code = 6 ∨ t.code = 2) :=
  ⟨vs, { isInt := true, code := 2, tval := 0, tvalIsGva := false }, rfl, rfl, .inr (.inr rfl)⟩

theorem witness_NeverDelegatedExceptionsStayOutOfTheGuest :
    (∃ s : State, s.v = false) ∧ (∃ s : State, s.priv = .m) ∧
    bit (State.reset.readCsr .medeleg) 13 = false ∧
    (∃ s : State, s.v = true ∧ s.priv ≠ .m ∧ bit (s.readCsr .medeleg) 13 = true ∧ bit (s.readCsr .hedeleg) 13 = true) ∧
    (∃ s : State, s.priv ≠ .m ∧ bit (s.readCsr .medeleg) 13 = true ∧ s.v = false ∧ bit (s.readCsr .hedeleg) 13 = true) ∧
    ∃ s : State, s.priv ≠ .m ∧ bit (s.readCsr .medeleg) 13 = true ∧ s.v = true ∧ bit (s.readCsr .hedeleg) 13 = false :=
  ⟨⟨hs, rfl⟩, ⟨mm, rfl⟩, by decide, ⟨vs.setHyp { vs.hyp with hedeleg := 0x2000 }, by decide⟩,
    ⟨hs.setHyp { hs.hyp with hedeleg := 0x2000 }, by decide⟩, ⟨vs, by decide⟩⟩

theorem witness_HtvalHoldsZeroOrTheShiftedGuestAddress :
    (∃ (t : Trap) (g : GuestFault), t.guest = some g ∧ t.isInt = false ∧ t.code ∈ [20, 21, 23]) ∧
    (∃ t : Trap, t.isInt = true ∨ t.code ∉ [20, 21, 23] ∨ t.guest = none) ∧ State.reset.cfg.htinstNonzero = false ∧
    (∃ (t : Trap) (g : GuestFault), t.guest = some g ∧ g.implicit = true) :=
  ⟨⟨{ isInt := false, code := 23, tval := 0, tvalIsGva := true, guest := some ⟨0x12345678, false, 0, true⟩ }, _, rfl, rfl, by decide⟩,
   ⟨{ isInt := false, code := 2, tval := 0, tvalIsGva := false }, .inr (.inl (by decide))⟩, rfl,
   ⟨{ isInt := false, code := 21, tval := 0, tvalIsGva := true, guest := some ⟨0x1000, true, 8, false⟩ }, _, rfl, rfl⟩⟩

theorem witness_EcallAndEbreakRaiseTheirCodes :
    (hart false .u).priv = .u ∧ (hart true .u).priv = .u ∧ (hs.priv = .s ∧ hs.v = false) ∧ (vs.priv = .s ∧ vs.v = true) ∧
      mm.priv = .m := by decide

theorem witness_SretAtV0RestoresModeFromSpvAndSpp :
    (∃ s : State, s.v = false ∧ s.priv ≠ .u ∧ s.priv = .s ∧ s.mstatusTsr = false ∧ s.spv = true) ∧
    (∃ s : State, s.v = false ∧ s.priv = .m ∧ s.mstatusTsr = true) :=
  ⟨⟨withHstatus 0x80 hs, by decide⟩, ⟨withMstatus 0x400000 mm, by decide⟩⟩

theorem witness_SretInVsModeReturnsWithinTheGuest :
    (∃ s : State, s.v = true ∧ s.priv = .s ∧ s.vtsr = false ∧ s.mstatusTsr = true) ∧
    ∃ s : State, s.v = true ∧ s.priv = .s ∧ s.vtsr = true :=
  ⟨⟨withMstatus 0x400000 vs, by decide⟩, ⟨withHstatus 0x400000 vs, by decide⟩⟩

theorem witness_MretRestoresModeFromMpvAndMpp :
    ∃ s : State, s.priv = .m ∧ s.mstatusMpp ≠ 2 ∧ s.mstatusMpp = 1 ∧ s.mstatusMpv = true :=
  ⟨withMstatus 0x8000000800 mm, by decide⟩

theorem witness_ReturnsAndFencesAreBarredAsTabled :
    (∃ s : State, s.v = false ∧ s.priv = .u) ∧ (∃ s : State, s.v = true ∧ s.priv = .u) ∧ (∃ s : State, s.v = true) ∧
    (∃ s : State, s.priv ≠ .m) ∧ (∃ s : State, s.v = true ∧ s.priv = .s ∧ s.vtsr = true) ∧
    (∃ s : State, s.v = false ∧ s.priv = .s ∧ s.mstatusTsr = true) ∧
    (∃ s : State, s.v = true ∧ s.priv = .s ∧ s.vtvm = true) ∧ (∃ s : State, s.v = false ∧ s.priv = .s ∧ s.mstatusTvm = true) :=
  ⟨⟨hart false .u, by decide⟩, ⟨hart true .u, by decide⟩, ⟨vs, by decide⟩, ⟨hs, by decide⟩, ⟨withHstatus 0x400000 vs, by decide⟩,
   ⟨withMstatus 0x400000 hs, by decide⟩, ⟨withHstatus 0x100000 vs, by decide⟩, ⟨withMstatus 0x100000 hs, by decide⟩⟩

theorem witness_WfiCompletesOrTrapsAsItsModeAllows :
    (∃ s : State, s.priv = .m) ∧ (∃ s : State, s.mstatusTw = false ∧ s.priv = .s ∧ s.v = true ∧ s.vtw = false) ∧
    (∃ s : State, s.priv ≠ .m ∧ s.mstatusTw = true) ∧
    (∃ s : State, s.v = true ∧ s.mstatusTw = false ∧ s.priv = .s ∧ s.vtw = true) ∧
    (∃ s : State, s.v = false ∧ s.mstatusTw = false ∧ s.priv = .u) :=
  ⟨⟨mm, by decide⟩, ⟨vs, by decide⟩, ⟨withMstatus 0x200000 hs, by decide⟩, ⟨withHstatus 0x200000 vs, by decide⟩,
   ⟨hart false .u, by decide⟩⟩

theorem witness_FencesDropTheCachedCopiesInTheirScopes :
    (∃ s : State, s.priv ≠ .u ∧ s.v = true ∧ s.vtvm = false) ∧
    (∃ s : State, s.v = false ∧ s.priv = .s ∧ s.mstatusTvm = false) ∧
    (∃ s : State, s.v = false ∧ s.priv = .m ∧ s.mstatusTvm = true) :=
  ⟨⟨vs, by decide⟩, ⟨hs, by decide⟩, ⟨withMstatus 0x100000 mm, by decide⟩⟩

theorem guestReader_bare : guestReader.bothStagesBare := ⟨by decide, by decide⟩

theorem guestReader_runs (i : Instr) : guestReader.mayRunVm i := ⟨rfl, by decide, fun _ => rfl⟩

/-- At the address in x11, and with x0 at address 0. -/
theorem witness_VmLoadUnderBareStagesReadsMemory : ∀ rs1 ∈ [(11 : Reg), 0],
    loadShape (.hlvD 10 rs1) = some ⟨.load, 8, false, 10, rs1⟩ ∧ guestReader.mayRunVm (.hlvD 10 rs1) ∧
      guestReader.bothStagesBare ∧ (guestReader.x rs1).toNat % 8 = 0 ∧
      fit guestReader.vsxlen (guestReader.x rs1) = guestReader.x rs1 ∧
      ∀ a ∈ addrsFrom (guestReader.x rs1).toNat 8, isMemory guestReader.cfg a = true := by
  intro rs1 h
  have h' : rs1 = 11 ∨ rs1 = 0 := by simpa using h
  rcases h' with rfl | rfl <;>
    exact ⟨rfl, guestReader_runs _, guestReader_bare, by decide, by decide, by decide⟩

theorem witness_VmStoreUnderBareStagesWritesMemory :
    storeShape (.hsvW 12 11) = some ⟨4, 12, 11⟩ ∧ guestReader.mayRunVm (.hsvW 12 11) ∧ guestReader.bothStagesBare ∧
      guestReader.memCanonical ∧ (guestReader.x 11).toNat % 4 = 0 ∧
      fit guestReader.vsxlen (guestReader.x 11) = guestReader.x 11 ∧
      ∀ a ∈ addrsFrom (guestReader.x 11).toNat 4, isMemory guestReader.cfg a = true :=
  ⟨rfl, guestReader_runs _, guestReader_bare, rfl, by decide, by decide, by decide⟩

theorem witness_VmLoadCompletesAndKeepsEverythingElse :
    ∃ w s', loadShape (.hlvxWu 10 11) = some ⟨.loadX, 4, false, 10, 11⟩ ∧ guestReader.mayRunVm (.hlvxWu 10 11) ∧
      guestReader.misalignedFor (guestReader.x 11) 4 = false ∧
      guestReader.vmemRead (guestReader.x 11) 4 (guestReader.virtAccess .loadX) = .ok w s' ∧
      guestReader.cfg.hwUpdatesAD = false :=
  ⟨_, _, rfl, guestReader_runs _, by decide, rfl, rfl⟩

theorem witness_VmStoreCompletesAndKeepsEverythingElse :
    ∃ spas s', storeShape (.hsvH 12 11) = some ⟨2, 12, 11⟩ ∧ guestReader.mayRunVm (.hsvH 12 11) ∧
      guestReader.misalignedFor (guestReader.x 11) 2 = false ∧
      guestReader.locate (guestReader.x 11) 2 (guestReader.virtAccess .store) = .ok spas s' :=
  ⟨_, _, rfl, guestReader_runs _, by decide, rfl⟩

theorem witness_VmInstructionsAreBarredByModeAndWidth :
    loadShape (.hlvD 10 11) ≠ none ∧ storeShape (.hsvB 10 11) ≠ none ∧
    (∃ s : State, s.v = true ∧ s.cfg.hsxlen = .x64) ∧ (∃ s : State, s.v = false ∧ s.priv = .u ∧ s.hu = false) ∧
    (∃ s : State, s.v = false ∧ (Instr.hlvD 10 11).rv64Only = true ∧ s.xlen = .x32) :=
  ⟨by decide, by decide, ⟨vs, by decide⟩, ⟨hart false .u, by decide⟩, ⟨narrow hs, by decide⟩⟩

/-- Misaligned by one and by n - 1; and the first byte past memory, the last byte of a doubleword that crosses its end. -/
theorem witness_MisalignedAndUnmappedVmAccessesTrap :
    (∀ a ∈ [(0x80400001 : Word), 0x80400007],
      let s : State := { guestReader with regs := guestReader.regs.set 16 a }
      s.mayRunVm (.hlvD 10 16) ∧ s.mayRunVm (.hsvD 10 16) ∧ s.cfg.misalignedOk = false ∧ (s.x 16).toNat % 8 ≠ 0) ∧
    (let s : State := { guestReader with
        regs := guestReader.regs.set 16 0x80000000, cfg := { Config.default with memMap := [⟨0, 0x80000007⟩] } }
     s.mayRunVm (.hlvD 10 16) ∧ s.mayRunVm (.hsvD 10 16) ∧ s.bothStagesBare ∧ (s.x 16).toNat % 8 = 0 ∧
        fit s.vsxlen (s.x 16) = s.x 16 ∧ ∃ a ∈ addrsFrom (s.x 16).toNat 8, isMemory s.cfg a = false) := by
  refine ⟨fun a h => ?_, ⟨⟨rfl, by decide, fun _ => rfl⟩, ⟨rfl, by decide, fun _ => rfl⟩,
    ⟨by decide, by decide⟩, by decide, by decide, by decide⟩⟩
  have h' : a = 0x80400001 ∨ a = 0x80400007 := by simpa using h
  rcases h' with rfl | rfl <;>
    exact ⟨⟨rfl, by decide, fun _ => rfl⟩, ⟨rfl, by decide, fun _ => rfl⟩, rfl, by decide⟩

/-- LS23 delegated to HS-mode, and the same with `medeleg` clear. -/
theorem witness_VmAccessFaultLeavesSpv0AndGva1 :
    (∃ f a s', loadShape (.hlvW 14 11) = some ⟨.load, 4, true, 14, 11⟩ ∧ paged.mayRunVm (.hlvW 14 11) ∧
      paged.misalignedFor (paged.x 11) 4 = false ∧
      paged.locate (paged.x 11) 4 (paged.virtAccess .load) = .fault f a s' ∧
      (paged.x 11).toNat % 4096 + 4 ≤ 4096 ∧ paged.priv ≠ .m ∧ bit paged.medelegBits (f.code .load) = true) ∧
    (let s := paged.setMach { paged.mach with medeleg := 0 }
     ∃ f a s', storeShape (.hsvW 12 11) = some ⟨4, 12, 11⟩ ∧ s.mayRunVm (.hsvW 12 11) ∧
      s.misalignedFor (s.x 11) 4 = false ∧ s.locate (s.x 11) 4 (s.virtAccess .store) = .fault f a s' ∧
      bit s.medelegBits (f.code .store) = false) :=
  ⟨⟨_, _, _, rfl, ⟨rfl, by decide, fun _ => rfl⟩, by decide, rfl, by decide, by decide, by decide⟩,
   ⟨_, _, _, rfl, ⟨rfl, by decide, fun _ => rfl⟩, by decide, rfl, by decide⟩⟩

theorem witness_BytesWrittenReadBackInTheirOrder :
    guestReader.memCanonical ∧ [0x80400007, 0x80400008].Nodup ∧
      [0x80400007, 0x80400008].length = ([0, 1] : List Byte).length := ⟨rfl, by decide, rfl⟩

theorem witness_GuestPageFaultsReportTheAddressThatFailed :
    hs.hgatpMode = 0 ∧
    (∃ f t, paged.gStage 0x12345678 .load false false 0 = .fault f t) ∧
    (∃ g t, (paged.virtAccess .load).effV = true ∧
      paged.translate 0x12345679 (paged.virtAccess .load) = .fault (.guestPage g) t ∧ g.implicit = false) ∧
    (let s := paged.setVs { paged.vs with vsatp := 0x8000000000000001 }
     ∃ g t, s.translate 0x12345679 (s.virtAccess .load) = .fault (.guestPage g) t ∧ g.implicit = true) :=
  ⟨by decide, ⟨_, _, rfl⟩, ⟨_, _, rfl, rfl, rfl⟩, ⟨_, _, rfl, rfl⟩⟩

/-- A leaf with U set: allowed to VU-mode (SPVP = 0), not to VS-mode with SUM clear; allowed by the G-stage; one with U clear
is not. -/
theorem witness_GuestPageFaults_permissions :
    (∃ p s', (withLeaf.vsWalk sv39 0x1234 (withLeaf.virtAccess .load)).entry 2 0x80000000 withLeaf = .ok p s' ∧
      sv39.usePte 2 p 0x1234 = .leaf 0x1234 ∧ pteU p = true ∧ pteR p = true ∧ (withLeaf.virtAccess .load).effPriv = .u ∧
      needsAD .load p = false) ∧
    (let s := withHstatus 0x100 withLeaf
     ∃ p s', (s.vsWalk sv39 0x1234 (s.virtAccess .store)).entry 2 0x80000000 s = .ok p s' ∧
      sv39.usePte 2 p 0x1234 = .leaf 0x1234 ∧ pteU p = true ∧ (s.virtAccess .store).effPriv = .s ∧ s.vsSum = false) ∧
    (∃ p s', (withLeaf.gWalk sv39x4 0x1234 .loadX false false 0).entry 2 0x80000000 withLeaf = .ok p s' ∧
      sv39x4.usePte 2 p 0x1234 = .leaf 0x1234 ∧ pteU p = true ∧ pteX p = true ∧ needsAD .loadX p = false) ∧
    (let s := { withLeaf with mem := [(0x80000000, 0xCF)] }
     ∃ p s', (s.gWalk sv39x4 0x1234 .load false false 0).entry 2 0x80000000 s = .ok p s' ∧
      sv39x4.usePte 2 p 0x1234 = .leaf 0x1234 ∧ pteU p = false) ∧
    ∃ a t, (hs.virtAccess .load).effV = true ∧ hs.translate 0x1234 (hs.virtAccess .load) = .ok a t :=
  ⟨⟨_, _, rfl, by decide⟩, ⟨_, _, rfl, by decide⟩, ⟨_, _, rfl, by decide⟩, ⟨_, _, rfl, by decide⟩, ⟨_, _, rfl, rfl⟩⟩

theorem witness_TranslationIgnoresOtherVirtualMachines : (paged.virtAccess .load).effV = true := rfl

theorem witness_VsAndHypervisorCsrsAreReachedOnlyFromHsAndMMode :
    (vs.v = true) ∧ ((hart false .u).v = false ∧ (hart false .u).priv = .u) ∧ (hs.v = false ∧ hs.priv ≠ .u) ∧
      (0xE12, Csr.hgeip) ∈ hypCsrAddrs ∧ (0x280, Csr.vsatp) ∈ vsCsrAddrs := by decide

theorem witness_SupervisorCsrNamesReachReplicasInVsMode :
    vs.priv ≠ .u ∧ (hart true .u).priv = .u ∧ (0x144, Csr.sip, Csr.vsip) ∈ supCsrAddrs := by decide

theorem witness_TvmAndVtvmGateTheTranslationRegisters :
    (hs.v = false ∧ hs.priv = .s) ∧ (mm.v = false ∧ mm.priv = .m) ∧
      ((hart false .u).v = false ∧ (hart false .u).priv = .u) ∧ (vs.v = true ∧ vs.priv = .s) ∧
      ((hart true .u).v = true ∧ (hart true .u).priv = .u) := by decide

theorem witness_UnimplementedReadOnlyAndMachineCsrsAreIllegal :
    csrAt 0x601 = none ∧ (0xC00 : CsrAddr).extractLsb' 10 2 = 3 ∧ (0xFFF : CsrAddr).extractLsb' 10 2 = 3 ∧
      State.reset.cfg.hsxlen = .x64 ∧ (0x34B, Csr.mtval2) ∈ machCsrAddrs := by decide

theorem witness_CounterReadsAreGatedByTheEnableRegisters :
    (0xC1F : CsrAddr) = 0b1100000#7 ++ (31 : BitVec 5) ∧ (0xC80 : CsrAddr) = 0b1100100#7 ++ (0 : BitVec 5) ∧
      (narrow hs).xlen = .x32 := by decide

theorem witness_TimeReadAtV1IsOffsetByHtimedelta :
    (∃ s : State, s.v = true ∧ s.resolveCsr 0xC01 false = .ok (.counter 1)) ∧
    (∃ s : State, s.v = true ∧ s.xlen = .x32 ∧ s.resolveCsr 0xC81 false = .ok (.counterh 1)) ∧
    (∃ s : State, s.resolveCsr (0b1100000#7 ++ (0 : BitVec 5)) false = .ok (.counter 0)) ∧
    State.reset.cfg.hsxlen = .x64 ∧ (narrow hs).cfg.hsxlen = .x32 :=
  ⟨⟨vs.setHyp { vs.hyp with hcounteren := 2 }, rfl, rfl⟩,
   ⟨narrow (vs.setHyp { vs.hyp with hcounteren := 2 }), rfl, rfl, rfl⟩, ⟨hs, rfl⟩, rfl, rfl⟩

theorem witness_CsrInstructionsCompleteWithTheirNewValue :
    (∃ c, hs.resolveCsr 0x600 false = .ok c) ∧
    (∃ u c, hs.resolveCsr 0x645 true = .ok c ∧ hs.writeCsr c (hs.x 5) = .ok u ∧ (5 : Reg) ≠ 0 ∧
      hs.x 5 = hs.readCsr c ||| hs.x 5) ∧
    (∃ u c, hs.resolveCsr 0x645 true = .ok c ∧ hs.writeCsr c 0 = .ok u ∧ 0 = hs.readCsr c &&& ~~~(hs.x 5) ∧
      0 = hs.readCsr c &&& ~~~((31 : BitVec 5).setWidth 64) ∧ 0 = (0 : BitVec 5).setWidth 64) ∧
    (∃ u c, hs.resolveCsr 0x645 true = .ok c ∧ hs.writeCsr c 31 = .ok u ∧ (31 : BitVec 5) ≠ 0 ∧
      31 = hs.readCsr c ||| (31 : BitVec 5).setWidth 64) :=
  ⟨⟨_, rfl⟩, ⟨_, _, rfl, rfl, by decide, by decide⟩, ⟨_, _, rfl, rfl, by decide, by decide, by decide⟩,
   ⟨_, _, rfl, rfl, by decide, by decide⟩⟩

theorem witness_HvipThroughTheSixCsrInstructions : hs.v = false ∧ hs.priv ≠ .u ∧ mm.v = false ∧ mm.priv ≠ .u := by decide

theorem witness_BarredCsrInstructionOnlyTraps :
    vs.resolveCsr 0x645 true = .error 22 ∧ hs.resolveCsr 0xE12 ((5 : Reg) != 0) = .error 2 ∧
      vs.resolveCsr 0x280 ((0 : BitVec 5) != 0) = .error 22 := ⟨rfl, rfl, rfl⟩

theorem witness_CsrWriteChangesOnlyCsrs : ∃ t, hs.writeCsr .hstatus 0x3000 = .ok t := ⟨_, rfl⟩

/-- GEILEN at 0 and at its greatest value. -/
theorem witness_DelegationAndGuestInterruptBitsAreAsTabled : ∀ g ∈ [0, 63],
    (State.resetOf { Config.default with geilen := g }).cfg.geilen < Config.default.hsxlen.bits := by decide

theorem witness_HgatpWriteIsNeverIgnored :
    State.reset.cfg.valid = true ∧ satpMode State.reset.cfg.hsxlen 0x8000000000000000 ∈ State.reset.cfg.hgatpModes ∧
      satpPpn State.reset.cfg.hsxlen 0x80000FFFFFFFFFFF < 2 ^ (State.reset.cfg.paBits - 12) ∧ (narrow hs).cfg.valid = true := by
  decide

/-- VGEIN at GEILEN, one above it, and with GEILEN = 0. -/
theorem witness_HstatusWriteStoresItsFieldsAndRefusesIllegalVgein :
    State.reset.cfg.geilen < 64 ∧ (State.reset.cfg.geilen ≠ 0 ∧ State.reset.cfg.geilen < field 0x4000 12 6) ∧
      field 0x3000 12 6 ≤ State.reset.cfg.geilen ∧ ({ Config.default with geilen := 0 } : Config).geilen = 0 := by decide

/-- VSXL kept (`hs` allows 64 bits alone), narrowed over a `vsatp` whose bit 31 would read as Sv32, and widened. -/
theorem witness_HstatusWrite_widths :
    (withHstatus 0x200000 hs).vsxlen = hs.vsxlen ∧
    (let s : State := { withHstatus 0 hs with cfg := { Config.default with vsxlLegal := [1, 2] } }
     s.cfg.valid = true ∧ s.cfg.hsxlen = .x64 ∧ field 0x100000000 32 2 ∈ s.cfg.vsxlLegal ∧ s.vsxlen = .x64 ∧
      see (fun t => t.vsxlen) (exec (.csrrw 0 0x600 6) { s with regs := s.regs.set 6 0x100000000 }) = some .x32 ∧
      satpMode .x32 s.vs.vsatp ∈ vsatpModesAt s.cfg .x32 ∧ satpMode .x32 0x8000000080000000 ∉ vsatpModesAt s.cfg .x32) ∧
    (let s : State := { hs with cfg := { Config.default with vsxlLegal := [1, 2] },
                                hyp := { hs.hyp with hstatus := 0x100000000 }, regs := hs.regs.set 6 0x200000000 }
     s.cfg.valid = true ∧ s.vsxlen = .x32 ∧
      see (fun t => (t.vsxlen, field t.vs.vsstatus 32 2)) (exec (.csrrw 0 0x600 6) s) = some (.x64, 2)) := by decide

theorem witness_VsatpWriteDependsOnVWhenTheModeIsUnsupported :
    (hs.cfg.valid = true ∧ satpMode hs.vsxlen 0x8000000000000000 ∈ vsatpModesAt hs.cfg hs.vsxlen) ∧
    (satpMode vs.vsxlen 0xA000000000000000 ∉ vsatpModesAt vs.cfg vs.vsxlen ∧ vs.v = true) ∧
    (satpMode hs.vsxlen 0xA000000000000000 ∉ vsatpModesAt hs.cfg hs.vsxlen ∧ hs.v = false) ∧
    (satpAsid hs.vsxlen 0x8FFFFFFFFFFFFFFF < 2 ^ hs.cfg.asidlen ∧ satpPpn hs.vsxlen 0x8FFFFFFFFFFFFFFF < 2 ^ hs.cfg.vsatpPpnBits) ∧
    (hs.vsxlen = .x64 ∧ hs.cfg.uxlCopy = true) ∧
    (let c : Config := { Config.default with uxlCopy := false, uxlLegal := [1, 2] }
     c.valid = true ∧ field 0x100000000 32 2 ∈ c.uxlLegal) ∧
    causeLegal hs.vsxlen 23 = true ∧ causeLegal hs.vsxlen 24 = false := by decide

/-- FW15 and FW16: FLW f0, 0(x0) with `vsstatus.FS` Off; a C.FLD parcel with it Off. -/
theorem witness_FloatingPointStateIsGatedAndTracked :
    (∃ s s' : State, s.interrupt = none ∧ s.fetch = .word 0x00002007 s' ∧ decode 0x00002007 = .error .floatingPoint ∧
      s'.v = true ∧ s'.vsFs = 0 ∧ s'.fs = 3) ∧
    (∃ s s' : State, s.interrupt = none ∧ s.fetch = .word 0x2000 s' ∧ decode 0x2000 = .error .compressed ∧
      isFloatParcel s'.xlen 0x2000 = true ∧ s'.v = true ∧ s'.vsFs = 0) :=
  ⟨⟨(withMstatus 0x6000 vs).withFetchWord 32 0x00002007, _, by decide, rfl, rfl, by decide, by decide, by decide⟩,
   ⟨(withMstatus 0x6000 vs).withFetchWord 16 0x2000, _, by decide, rfl, rfl, by decide, by decide, by decide⟩⟩

theorem witness_HsInterruptsAreTakenWhenPendingInTheStatedOrder :
    (withMstatus 2 (withVirtual 0x044 0x444 0 hs)).interrupt = some (.hyper, 2) ∧
    (∀ i, (withMstatus 2 (withVirtual 0x044 0x444 0 hs)).interrupt ≠ some (.machine, i)) := by
  have h : (withMstatus 2 (withVirtual 0x044 0x444 0 hs)).interrupt = some (.hyper, 2) := by decide
  exact ⟨h, fun i => by rw [h]; simp⟩

theorem witness_VirtualInterruptsGoToTheirLevels :
    (let s := withVirtual 0x440 0x444 0x444 (hart true .u)
     s.interrupt = some (.guest, 10) ∧ s.v = true ∧ (s.priv = .u ∨ s.vsSie = true) ∧ bit (s.readCsr .hip) 6 = true ∧
      bit (s.readCsr .hie) 6 = true ∧ bit (s.readCsr .hideleg) 6 = true) ∧
    (withVirtual 0x040 0x444 0x444 (hart true .u)).interrupt = some (.guest, 6) ∧
      [10, 2, 6].idxOf 2 < [10, 2, 6].idxOf 6 ∧
    (let s := { withVirtual 0x440 0x8CC 0x444 (hart true .u) with plat := { hs.plat with msi := true, mti := true } }
     s.priv ≠ .m ∧ bit (s.readCsr .mip) 7 = true ∧ bit (s.readCsr .mie) 7 = true ∧ s.interrupt = some (.machine, 3)) ∧
    (let s := withVirtual 0x444 0x444 0x440 (hart true .u)
     s.hyperGlobal = true ∧ s.hyperPending 2 = true ∧ s.interrupt = some (.hyper, 2)) := by decide

end Sys2Proof.Tests
end

/-! ## Scope, part 1: the fields a write of `hstatus` leaves (10_state.md R33, R34, R38) -/

namespace Sys2Proof.Machine

/-- The low half of `hstatus` after a write. -/
theorem State.bit_hstatusImage_low (s : State) (w : Word) {i : Nat} (hi : i < 32) :
    bit (s.hstatusImage w) i =
      if 12 ≤ i ∧ i < 18 then decide (s.cfg.geilen ≠ 0) && bit w i
      else if i = 5 then s.cfg.vsbeWritable && bit w 5
      else if bit 0x007003C0 i then bit w i else bit s.hyp.hstatus i := by
  have hlow : bit (s.hstatusImage w) i =
      bit (setField (setBit (merge 0x007003C0 w s.hyp.hstatus) 5 (s.cfg.vsbeWritable && bit w 5)) 12 6
        (if s.cfg.geilen = 0 then 0 else field w 12 6)) i := by
    unfold State.hstatusImage
    cases s.cfg.hsxlen with
    | x32 => split <;> rfl
    | x64 => rw [bit_setField_out _ _ _ _ _ (by omega) (by omega)]; split <;> rfl
  rw [hlow, bit_setField _ _ _ _ _ (by omega), bit_setBit _ _ _ _ (by omega), bit_merge]
  by_cases hv : 12 ≤ i ∧ i < 18
  · have hsum : 12 + (i - 12) = i := by omega
    by_cases hg : s.cfg.geilen = 0
    · simp [hv, hg]
    · simp [hv, hg, testBit_field, hsum]; omega
  · simp [hv]

/-- VGEIN after a write of `hstatus`. -/
theorem State.vgein_hstatusImage (s : State) (w : Word) :
    field (s.hstatusImage w) 12 6 = if s.cfg.geilen = 0 then 0 else field w 12 6 := by
  apply Nat.eq_of_testBit_eq
  intro j
  rw [testBit_field]
  by_cases hj : j < 6
  · rw [s.bit_hstatusImage_low w (by omega), if_pos (by omega)]
    by_cases hg : s.cfg.geilen = 0 <;> simp [hg, hj, testBit_field]
  · by_cases hg : s.cfg.geilen = 0 <;> simp [hg, hj, testBit_field]

/-- An admissible implementation has a VSXL to choose, and each it allows fits the field. -/
theorem Config.vsxlLegal_of_valid {c : Config} (hc : c.valid = true) :
    c.vsxlLegal ≠ [] ∧ ∀ n ∈ c.vsxlLegal, n < 2 ^ 2 := by
  simp only [Config.valid, Bool.and_eq_true, List.all_eq_true, Bool.or_eq_true, beq_iff_eq, Bool.not_eq_true'] at hc
  obtain ⟨⟨⟨⟨⟨⟨⟨⟨⟨⟨-, -⟩, hne⟩, hall⟩, -⟩, -⟩, -⟩, -⟩, -⟩, -⟩, -⟩ := hc
  refine ⟨by simpa using hne, fun n hn => ?_⟩
  rcases hall n hn with rfl | rfl <;> decide

/-- Bare is a mode of `vsatp` and `satp` at every width. -/
theorem Config.vsatpModesAt_ne_nil {c : Config} (hc : c.valid = true) (x : Xlen) : vsatpModesAt c x ≠ [] := by
  simp only [Config.valid, Bool.and_eq_true, List.contains_iff_mem] at hc
  obtain ⟨⟨⟨⟨-, hbare⟩, -⟩, -⟩, -⟩ := hc
  have hmem : 0 ∈ vsatpModesAt c x := by cases x <;> simpa [vsatpModesAt] using hbare
  exact List.ne_nil_of_mem hmem

/-- `HGATP_MODES` of an admissible implementation has a mode to choose, and each fits the field at HSXLEN. -/
theorem Config.hgatpModes_of_valid {c : Config} (hc : c.valid = true) :
    c.hgatpModes ≠ [] ∧ ∀ m ∈ c.hgatpModes, m < satpModeCount c.hsxlen := by
  simp only [Config.valid, Bool.and_eq_true, List.contains_iff_mem] at hc
  obtain ⟨⟨⟨⟨⟨-, hbare⟩, -⟩, hmodes⟩, -⟩, -⟩ := hc
  refine ⟨List.ne_nil_of_mem hbare, fun m hm => ?_⟩
  cases hx : c.hsxlen <;> simp [hx] at hmodes <;> simp only [satpModeCount]
  · have := hmodes.1.1.1 m hm; omega
  · have := hmodes.1.1 m hm; omega

/-- VSXL after a write of `hstatus` at HSXLEN = 64. -/
theorem State.vsxl_hstatusImage {s : State} (hc : s.cfg.valid = true) (hx : s.cfg.hsxlen = .x64) (w : Word) :
    field (s.hstatusImage w) 32 2 = s.vsxlImage w := by
  obtain ⟨hne, hlt⟩ := Config.vsxlLegal_of_valid hc
  unfold State.hstatusImage
  rw [hx]
  dsimp only
  rw [field_setField _ _ _ _ (by omega)]
  exact Nat.mod_eq_of_lt (hlt _ (legalize_mem hne _ _))

end Sys2Proof.Machine

/-! ## Scope, part 2: every step keeps the fields with a legal set legal -/

namespace Sys2Proof.Machine

/-- The fields `State.fieldsLegal` speaks of are as in `s`; MPP may become another privilege. -/
structure SameLegalFields (s t : State) : Prop where
  cfg : t.cfg = s.cfg
  vgein : t.vgein = s.vgein
  vsxl : t.vsxl = s.vsxl
  hgatp : t.hyp.hgatp = s.hyp.hgatp
  vsatp : t.vs.vsatp = s.vs.vsatp
  satp : t.sup.satp = s.sup.satp
  mpp : s.mstatusMpp ≠ 2 → t.mstatusMpp ≠ 2

/-- VSXLEN is a function of HSXLEN and VSXL. -/
theorem State.vsxlen_congr {s t : State} (hcfg : t.cfg = s.cfg) (hvsxl : t.vsxl = s.vsxl) : t.vsxlen = s.vsxlen := by
  simp only [State.vsxlen, hcfg, hvsxl]

theorem SameLegalFields.fieldsLegal {s t : State} (h : SameLegalFields s t) (hs : s.fieldsLegal) : t.fieldsLegal := by
  have hvsxlen := State.vsxlen_congr h.cfg h.vsxl
  obtain ⟨hvalid, hvgein, hmode, hvmid, hppn, hvsxl, hvsatp, hsatp, hmpp⟩ := hs
  simp only [State.hgatpMode, State.hgatpVmid, State.hgatpPpn] at hmode hvmid hppn
  simp only [State.fieldsLegal, State.hgatpMode, State.hgatpVmid, State.hgatpPpn, h.cfg, h.vgein, h.vsxl, h.hgatp,
    h.vsatp, h.satp, hvsxlen]
  exact ⟨hvalid, hvgein, hmode, hvmid, hppn, hvsxl, hvsatp, hsatp, h.mpp hmpp⟩

/-- Where the CSRs that hold the fields stay, the fields do. -/
theorem SameLegalFields.of_csrs {s t : State} (hcfg : t.cfg = s.cfg) (hhyp : t.hyp = s.hyp) (hvs : t.vs = s.vs)
    (hsup : t.sup = s.sup) (hmach : t.mach = s.mach) : SameLegalFields s t where
  cfg := hcfg
  vgein := by simp only [State.vgein, hhyp]
  vsxl := by simp only [State.vsxl, hhyp]
  hgatp := by rw [hhyp]
  vsatp := by rw [hvs]
  satp := by rw [hsup]
  mpp := by simp only [State.mstatusMpp, hmach]; exact id

/-! ### Trap entry and return -/

/-- A status word that differs in no bit of MPP has the same MPP. -/
theorem field_mpp_congr {a b : Word} (h11 : bit a 11 = bit b 11) (h12 : bit a 12 = bit b 12) :
    field a 11 2 = field b 11 2 :=
  field_congr _ _ fun j hj => by
    obtain rfl | rfl : j = 0 ∨ j = 1 := by omega
    · exact h11
    · exact h12

theorem field_mpp_enterStatus (w : Word) (spp : Bool) : field (enterStatus w spp) 11 2 = field w 11 2 :=
  field_mpp_congr (by simp [bit_enterStatus]) (by simp [bit_enterStatus])

theorem field_mpp_leaveStatus (w : Word) : field (leaveStatus w) 11 2 = field w 11 2 :=
  field_mpp_congr (by simp [bit_leaveStatus]) (by simp [bit_leaveStatus])

/-- Trap entry writes bits 8, 7 and 6 of `hstatus` only. -/
theorem State.field_hstatusOfEntry (s : State) (t : Trap) {lo len : Nat} (h : 8 < lo) :
    field (s.hstatusOfEntry t) lo len = field s.hyp.hstatus lo len :=
  field_congr _ _ fun j _ => by
    rw [s.bit_hstatusOfEntry, if_neg (by omega), if_neg (by omega), if_neg (by omega)]

/-- A trap into M-mode leaves the trapped privilege in MPP. -/
theorem State.field_mpp_mstatusOfEntry (s : State) (t : Trap) : field (s.mstatusOfEntry t) 11 2 = s.priv.code := by
  unfold State.mstatusOfEntry
  dsimp only
  rw [field_setBit_out _ _ _ _ _ (by omega), field_setBit_out _ _ _ _ _ (by omega), field_setField _ _ _ _ (by omega)]
  cases s.priv <;> rfl

/-- No privilege has the encoding 2. -/
theorem Priv.code_ne_two (p : Priv) : p.code ≠ 2 := by cases p <;> decide

theorem State.enter_sameLegalFields (s : State) (g : Target) (t : Trap) (epc : Word) :
    SameLegalFields s (s.enter g t epc) := by
  cases g with
  | machine =>
    refine ⟨rfl, rfl, rfl, rfl, rfl, rfl, fun _ => ?_⟩
    rw [show (s.enter .machine t epc).mstatusMpp = _ from s.field_mpp_mstatusOfEntry t]
    exact s.priv.code_ne_two
  | hyper =>
    refine ⟨rfl, s.field_hstatusOfEntry t (by omega), s.field_hstatusOfEntry t (by omega), rfl, rfl, rfl, fun h => ?_⟩
    rwa [show (s.enter .hyper t epc).mstatusMpp = _ from field_mpp_enterStatus _ _]
  | guest => exact ⟨rfl, rfl, rfl, rfl, rfl, rfl, id⟩

theorem State.returnHyper_sameLegalFields (s : State) : SameLegalFields s s.returnHyper := by
  refine ⟨rfl, field_setBit_out _ _ _ _ _ (by omega), field_setBit_out _ _ _ _ _ (by omega), rfl, rfl, rfl, fun h => ?_⟩
  have hmpp : s.returnHyper.mstatusMpp = s.mstatusMpp := by
    unfold State.mstatusMpp State.returnHyper
    dsimp only
    split
    · rw [field_setBit_out _ _ _ _ _ (by omega), field_mpp_leaveStatus]
    · exact field_mpp_leaveStatus _
  rwa [hmpp]

/-- MRET leaves U in MPP. -/
theorem State.returnMachine_mpp (s : State) : s.returnMachine.mstatusMpp = 0 := by
  unfold State.mstatusMpp State.returnMachine
  dsimp only
  rw [field_setBit_out _ _ _ _ _ (by omega), field_setField _ _ _ _ (by omega)]
  rfl

theorem State.returnMachine_sameLegalFields (s : State) : SameLegalFields s s.returnMachine :=
  ⟨rfl, rfl, rfl, rfl, rfl, rfl, fun _ => by rw [s.returnMachine_mpp]; decide⟩

/-! ### CSR writes -/

/-- A write of the HS-level `sstatus` leaves MPP. -/
theorem State.field_mpp_sstatusImage (s : State) (w : Word) : field (s.sstatusImage w) 11 2 = field s.mach.mstatus 11 2 := by
  unfold State.sstatusImage
  dsimp only
  rw [field_setField_out _ _ _ _ _ _ (by omega) (by omega)]
  exact field_mpp_congr (by rw [bit_merge]; rfl) (by rw [bit_merge]; rfl)

/-- A write of `mstatus` leaves a privilege in MPP. -/
theorem State.field_mpp_mstatusImage (s : State) (w : Word) : field (s.mstatusImage w) 11 2 ≠ 2 := by
  have hmem : legalize [0, 1, 3] (field w 11 2) (Config.legalizeMpp w s.mach.mstatus) ∈ [0, 1, 3] :=
    legalize_mem (by decide) _ _
  have hfield : field (s.mstatusImage w) 11 2 =
      legalize [0, 1, 3] (field w 11 2) (Config.legalizeMpp w s.mach.mstatus) % 2 ^ 2 := by
    unfold State.mstatusImage
    dsimp only
    split
    · exact field_setField _ _ _ _ (by omega)
    · rw [field_setField_out _ _ _ _ _ _ (by omega) (by omega), ← field_setField _ 11 2 _ (by omega)]
      exact field_mpp_congr (by rw [bit_merge]; rfl) (by rw [bit_merge]; rfl)
  rw [hfield]
  simp only [List.mem_cons, List.not_mem_nil, or_false] at hmem
  rcases hmem with h | h | h <;> simp [h]

/-- A write of any CSR but the five that hold the fields leaves them, `sstatus` and `mstatush` being views of `mstatus`
without MPP. -/
theorem State.writeCsr_sameLegalFields {s t : State} {c : Csr} {w : Word} (h : s.writeCsr c w = .ok t)
    (hc : c ∉ [Csr.hstatus, .hgatp, .vsatp, .satp, .mstatus]) : SameLegalFields s t := by
  cases c with
  | hstatus | hgatp | vsatp | satp | mstatus => simp at hc
  | sstatus =>
    cases h
    refine ⟨rfl, rfl, rfl, rfl, rfl, rfl, fun hm => ?_⟩
    exact fun e => hm ((s.field_mpp_sstatusImage w).symm.trans e)
  | mstatush =>
    cases h
    refine ⟨rfl, rfl, rfl, rfl, rfl, rfl, fun hm => ?_⟩
    have hmpp : field (merge 0xC000000000 (w <<< 32) s.mach.mstatus) 11 2 = field s.mach.mstatus 11 2 :=
      field_mpp_congr (by rw [bit_merge]; rfl) (by rw [bit_merge]; rfl)
    exact fun e => hm (hmpp.symm.trans e)
  | vscause | misa =>
    simp only [State.writeCsr] at h
    split at h <;> cases h
    exact ⟨rfl, rfl, rfl, rfl, rfl, rfl, id⟩
  | _ => cases h; exact ⟨rfl, rfl, rfl, rfl, rfl, rfl, id⟩

end Sys2Proof.Machine

/-! ### Writes of the five CSRs that hold the fields -/

namespace Sys2Proof.Machine

/-- `s` with `hstatus` written, before the VS CSRs are fitted to the VSXLEN it selects. -/
def State.storeHstatus (s : State) (w : Word) : State := s.setHyp { s.hyp with hstatus := s.hstatusImage w }

/-- A write of `hstatus` is refused, or stores it and fits the VS CSRs to the width. -/
theorem State.writeCsr_hstatus (s : State) (w : Word) :
    s.writeCsr .hstatus w =
      if s.cfg.geilen ≠ 0 ∧ s.cfg.geilen < field w 12 6 then .error (.wlrlIllegalValue "hstatus.VGEIN")
      else .ok ((s.storeHstatus w).resizeVs s.vsxlen) := rfl

@[simp] theorem State.resizeVs_cfg (s : State) (old : Xlen) : (s.resizeVs old).cfg = s.cfg := by rw [State.resizeVs_eq]

@[simp] theorem State.resizeVs_hyp (s : State) (old : Xlen) : (s.resizeVs old).hyp = s.hyp := by rw [State.resizeVs_eq]

@[simp] theorem State.resizeVs_sup (s : State) (old : Xlen) : (s.resizeVs old).sup = s.sup := by rw [State.resizeVs_eq]

@[simp] theorem State.resizeVs_mach (s : State) (old : Xlen) : (s.resizeVs old).mach = s.mach := by rw [State.resizeVs_eq]

@[simp] theorem State.resizeVs_vsxl (s : State) (old : Xlen) : (s.resizeVs old).vsxl = s.vsxl := by rw [State.resizeVs_eq]; rfl

@[simp] theorem State.resizeVs_vsxlen (s : State) (old : Xlen) : (s.resizeVs old).vsxlen = s.vsxlen :=
  State.vsxlen_congr (s.resizeVs_cfg old) (s.resizeVs_vsxl old)

/-- The VS CSRs where the width changed. -/
theorem State.resizeVs_vs_of_ne {s : State} {old : Xlen} (h : s.vsxlen ≠ old) :
    (s.resizeVs old).vs =
      { s.vs with
        vsstatus := if old = .x32 then setField s.vs.vsstatus 32 2 (widestUxl s.cfg) else s.vs.vsstatus
        vsatp := s.vsatpLegal s.vs.vsatp } := by
  rw [State.resizeVs, if_neg h]

theorem State.fieldsLegal_of_write_hstatus {s t : State} {w : Word} (hs : s.fieldsLegal)
    (h : s.writeCsr .hstatus w = .ok t) : t.fieldsLegal := by
  obtain ⟨hvalid, hvgein, hmode, hvmid, hppn, hvsxl, hvsatp, hsatp, hmpp⟩ := hs
  rw [State.writeCsr_hstatus] at h
  split at h
  · cases h
  next hok =>
  cases h
  have hvsatp' : satpMode (s.storeHstatus w).vsxlen ((s.storeHstatus w).resizeVs s.vsxlen).vs.vsatp ∈
      vsatpModesAt s.cfg (s.storeHstatus w).vsxlen := by
    by_cases hsame : (s.storeHstatus w).vsxlen = s.vsxlen
    · rw [State.resizeVs_same hsame, hsame]; exact hvsatp
    · rw [State.resizeVs_vs_of_ne hsame]
      exact State.vsatpLegal_mode (s := s.storeHstatus w) (Config.vsatpModesAt_ne_nil hvalid _) _
  simp only [State.fieldsLegal, State.vgein, State.hgatpMode, State.hgatpVmid, State.hgatpPpn, State.mstatusMpp,
    State.resizeVs_vsxlen, State.resizeVs_vsxl, State.resizeVs_cfg, State.resizeVs_hyp, State.resizeVs_sup,
    State.resizeVs_mach]
  refine ⟨hvalid, ?_, hmode, hvmid, hppn, fun hx => ?_, hvsatp', hsatp, hmpp⟩
  · rw [show (s.storeHstatus w).hyp.hstatus = s.hstatusImage w from rfl, s.vgein_hstatusImage w]
    split
    · exact Nat.zero_le _
    · next hg => exact Nat.le_of_not_lt fun hlt => hok ⟨hg, hlt⟩
  · rw [show (s.storeHstatus w).vsxl = s.vsxlImage w from State.vsxl_hstatusImage hvalid hx w]
    exact legalize_mem (Config.vsxlLegal_of_valid hvalid).1 _ _

/-- The fields of `hgatp` after a write (10_state.md R102 to R104). -/
theorem State.hgatpImage_fields {s t : State} {w : Word} (hc : s.cfg.valid = true) (hcfg : t.cfg = s.cfg)
    (ht : t.hyp.hgatp = s.hgatpImage w) :
    t.hgatpMode ∈ s.cfg.hgatpModes ∧ t.hgatpVmid < 2 ^ s.cfg.vmidlen ∧ t.hgatpPpn % 4 = 0 := by
  obtain ⟨hne, hlt⟩ := Config.hgatpModes_of_valid hc
  have hmode : ∀ n, legalize s.cfg.hgatpModes n (Config.legalizeHgatpMode w s.hyp.hgatp) % satpModeCount s.cfg.hsxlen ∈
      s.cfg.hgatpModes := fun n => by
    have hmem := legalize_mem hne n (Config.legalizeHgatpMode w s.hyp.hgatp)
    rwa [Nat.mod_eq_of_lt (hlt _ hmem)]
  have hvmid : ∀ n k, n % 2 ^ s.cfg.vmidlen % k < 2 ^ s.cfg.vmidlen := fun n k =>
    Nat.lt_of_le_of_lt (Nat.mod_le _ _) (Nat.mod_lt _ (Nat.two_pow_pos _))
  simp only [State.hgatpMode, State.hgatpVmid, State.hgatpPpn, hcfg, ht, State.hgatpImage]
  cases hx : s.cfg.hsxlen <;> rw [hx] at hmode <;> dsimp only
  all_goals
    rw [field_setField_out _ _ _ _ _ _ (by omega) (by omega), field_setField_out _ _ _ _ _ _ (by omega) (by omega),
      field_setField _ _ _ _ (by omega), field_setField_out _ _ _ _ _ _ (by omega) (by omega),
      field_setField _ _ _ _ (by omega), field_setField _ _ _ _ (by omega)]
    exact ⟨hmode _, hvmid _ _, by omega⟩

theorem State.fieldsLegal_of_write_hgatp {s t : State} {w : Word} (hs : s.fieldsLegal)
    (h : s.writeCsr .hgatp w = .ok t) : t.fieldsLegal := by
  cases h
  obtain ⟨hvalid, hvgein, -, -, -, hvsxl, hvsatp, hsatp, hmpp⟩ := hs
  obtain ⟨hmode, hvmid, hppn⟩ := State.hgatpImage_fields hvalid
    (t := s.setHyp { s.hyp with hgatp := s.hgatpImage w }) rfl rfl
  exact ⟨hvalid, hvgein, hmode, hvmid, hppn, hvsxl, hvsatp, hsatp, hmpp⟩

theorem State.fieldsLegal_of_write_vsatp {s t : State} {w : Word} (hs : s.fieldsLegal)
    (h : s.writeCsr .vsatp w = .ok t) : t.fieldsLegal := by
  cases h
  obtain ⟨hvalid, hvgein, hmode, hvmid, hppn, hvsxl, hvsatp, hsatp, hmpp⟩ := hs
  have hvsatp' : satpMode s.vsxlen (s.vsatpImage w) ∈ vsatpModesAt s.cfg s.vsxlen := by
    unfold State.vsatpImage
    split
    · exact hvsatp
    · exact State.vsatpLegal_mode (Config.vsatpModesAt_ne_nil hvalid _) w
  exact ⟨hvalid, hvgein, hmode, hvmid, hppn, hvsxl, hvsatp', hsatp, hmpp⟩

/-- A write of the HS-level `satp` keeps its MODE supported. -/
theorem State.satpImageOf_mode {s : State} (hs : satpMode s.cfg.hsxlen s.sup.satp ∈ vsatpModesAt s.cfg s.cfg.hsxlen)
    (w : Word) : satpMode s.cfg.hsxlen (s.satpImageOf w) ∈ vsatpModesAt s.cfg s.cfg.hsxlen := by
  unfold State.satpImageOf
  dsimp only
  split
  · next hc =>
    have hm : satpMode s.cfg.hsxlen w ∈ vsatpModesAt s.cfg s.cfg.hsxlen := by simpa using hc
    have ha : satpAsid s.cfg.hsxlen w < 2 ^ asidWidth s.cfg.hsxlen := by cases s.cfg.hsxlen <;> exact field_lt _ _ _
    have hp : satpPpn s.cfg.hsxlen w < 2 ^ ppnWidth s.cfg.hsxlen := by cases s.cfg.hsxlen <;> exact field_lt _ _ _
    obtain ⟨hmode, -, -⟩ := satpImage_fields (vsatpModesAt_lt hm)
      (warlAbove_lt (holds := Config.upperHolds .satpAsid) s.cfg.asidlen (Config.legalizeUpper .satpAsid w s.sup.satp) ha)
      (warlAbove_lt (holds := Config.upperHolds .satpPpn) (s.cfg.paBits - 12)
        (Config.legalizeUpper .satpPpn w s.sup.satp) hp)
    unfold warlField
    rw [hmode]
    exact hm
  · exact hs

theorem State.fieldsLegal_of_write_satp {s t : State} {w : Word} (hs : s.fieldsLegal)
    (h : s.writeCsr .satp w = .ok t) : t.fieldsLegal := by
  cases h
  obtain ⟨hvalid, hvgein, hmode, hvmid, hppn, hvsxl, hvsatp, hsatp, hmpp⟩ := hs
  exact ⟨hvalid, hvgein, hmode, hvmid, hppn, hvsxl, hvsatp, State.satpImageOf_mode hsatp w, hmpp⟩

theorem State.fieldsLegal_of_write_mstatus {s t : State} {w : Word} (hs : s.fieldsLegal)
    (h : s.writeCsr .mstatus w = .ok t) : t.fieldsLegal := by
  cases h
  obtain ⟨hvalid, hvgein, hmode, hvmid, hppn, hvsxl, hvsatp, hsatp, -⟩ := hs
  exact ⟨hvalid, hvgein, hmode, hvmid, hppn, hvsxl, hvsatp, hsatp, s.field_mpp_mstatusImage w⟩

/-- Every CSR write that is not refused keeps the fields legal. -/
theorem State.writeCsr_keeps_fieldsLegal {s t : State} {c : Csr} {w : Word} (hs : s.fieldsLegal)
    (h : s.writeCsr c w = .ok t) : t.fieldsLegal := by
  by_cases hc : c ∈ [Csr.hstatus, .hgatp, .vsatp, .satp, .mstatus]
  · simp only [List.mem_cons, List.not_mem_nil, or_false] at hc
    obtain rfl | rfl | rfl | rfl | rfl := hc
    · exact State.fieldsLegal_of_write_hstatus hs h
    · exact State.fieldsLegal_of_write_hgatp hs h
    · exact State.fieldsLegal_of_write_vsatp hs h
    · exact State.fieldsLegal_of_write_satp hs h
    · exact State.fieldsLegal_of_write_mstatus hs h
  · exact (State.writeCsr_sameLegalFields h hc).fieldsLegal hs

/-- Settles O14: every step keeps the fields with a legal set legal. Only trap entry, the returns and CSR writes touch a
register that holds one. -/
theorem everyStepKeepsFieldsLegal : Obligations.EveryStepKeepsFieldsLegal := by
  unfold Obligations.EveryStepKeepsFieldsLegal
  apply step_keeps
  case hplat => exact fun s => (SameLegalFields.of_csrs rfl rfl rfl rfl rfl).fieldsLegal
  case hwalk => exact fun s t h => (SameLegalFields.of_csrs h.cfg h.hyp h.vs h.sup h.mach).fieldsLegal
  case hreg => exact fun s r w => (SameLegalFields.of_csrs rfl rfl rfl rfl rfl).fieldsLegal
  case hpc => exact fun s => (SameLegalFields.of_csrs rfl rfl rfl rfl rfl).fieldsLegal
  case hmem => exact fun s cells => (SameLegalFields.of_csrs rfl rfl rfl rfl rfl).fieldsLegal
  case hfence => exact fun s scope => (SameLegalFields.of_csrs rfl rfl rfl rfl rfl).fieldsLegal
  case htrap => exact fun s p hs _ _ => (s.enter_sameLegalFields _ p _).fieldsLegal hs
  case hint => exact fun s g c _ hs => (s.enter_sameLegalFields g _ _).fieldsLegal hs
  case hcsr => exact fun s t c w hs h => State.writeCsr_keeps_fieldsLegal hs h
  case hguest =>
    intro s _ hs
    have hsame : SameLegalFields s s.returnGuest := ⟨rfl, rfl, rfl, rfl, rfl, rfl, id⟩
    exact hsame.fieldsLegal hs
  case hhyper => exact fun s _ hs => s.returnHyper_sameLegalFields.fieldsLegal hs
  case hmachine => exact fun s _ hs => s.returnMachine_sameLegalFields.fieldsLegal hs

end Sys2Proof.Machine

/-! ## Scope, part 3: which instructions stop (00_scope.md R3, R12) -/

namespace Sys2Proof.Machine

theorem State.unlessBarred_next (s : State) (i : Instr) (bar : Option Nat) (e : State) :
    ∃ t, s.unlessBarred i bar e = .next t := by
  cases bar with
  | some code => exact ⟨_, rfl⟩
  | none => exact ⟨_, rfl⟩

theorem State.virtLoad_next (s : State) (i : Instr) (k : AccKind) (n : Nat) (signed : Bool) (rd rs1 : Reg) :
    ∃ t, s.virtLoad i k n signed rd rs1 = .next t := by
  unfold State.virtLoad
  split
  · exact ⟨_, rfl⟩
  · dsimp only
    split
    · exact ⟨_, rfl⟩
    · split <;> exact ⟨_, rfl⟩

theorem State.virtStore_next (s : State) (i : Instr) (n : Nat) (rs2 rs1 : Reg) :
    ∃ t, s.virtStore i n rs2 rs1 = .next t := by
  unfold State.virtStore
  split
  · exact ⟨_, rfl⟩
  · dsimp only
    split
    · exact ⟨_, rfl⟩
    · split <;> exact ⟨_, rfl⟩

theorem execWfi_next (s : State) : ∃ t, execWfi s = .next t := by
  unfold execWfi
  split <;> exact ⟨_, rfl⟩

/-- An instruction that is no CSR instruction answers a next state: it is the privileged group's, a load or a store. -/
theorem exec_next_of_not_csr {i : Instr} (hi : csrOperand i = none) (s : State) : ∃ t, exec i s = .next t := by
  cases i with
  | csrrw | csrrs | csrrc | csrrwi | csrrsi | csrrci => cases hi
  | ecall | ebreak => exact ⟨_, rfl⟩
  | wfi => exact execWfi_next s
  | sret | mret | sfenceVma | hfenceVvma | hfenceGvma => exact s.unlessBarred_next _ _ _
  | hlvB | hlvBu | hlvH | hlvHu | hlvxHu | hlvW | hlvWu | hlvxWu | hlvD => exact s.virtLoad_next _ _ _ _ _ _
  | hsvB | hsvH | hsvW | hsvD => exact s.virtStore_next _ _ _ _

/-- A CSR instruction answers a next state unless its permitted write is one the CSR refuses. -/
theorem exec_csr_cases {i : Instr} {a : CsrAddr} {w : Bool} (hi : csrOperand i = some (a, w)) (s : State) :
    (∃ t, exec i s = .next t) ∨
    (∃ c r, w = true ∧ s.resolveCsr a true = .ok c ∧ s.refusesWrite c (s.csrNewValue (s.readCsr c) i) ∧
      exec i s = .refused r) := by
  cases hc : s.resolveCsr a w with
  | error code => exact .inl ⟨_, State.csrAnswers_of_resolveCsr hc i hi⟩
  | ok c =>
    have hexec := State.csrAnswers_of_resolveCsr hc i hi
    cases w with
    | false => exact .inl ⟨_, hexec⟩
    | true =>
      rw [if_pos rfl] at hexec
      cases hw : s.writeCsr c (s.csrNewValue (s.readCsr c) i) with
      | ok u => rw [hw] at hexec; exact .inl ⟨_, hexec⟩
      | error r =>
        rw [hw] at hexec
        exact .inr ⟨c, r, rfl, hc, (s.writeCsr_refused c _).mp ⟨r, hw⟩, hexec⟩

/-- A CSR instruction whose permitted write the CSR refuses is refused. -/
theorem exec_refused_of_refusesWrite {i : Instr} {s : State} {a : CsrAddr} {c : Csr} (hi : csrOperand i = some (a, true))
    (hc : s.resolveCsr a true = .ok c) (hw : s.refusesWrite c (s.csrNewValue (s.readCsr c) i)) :
    ∃ r, exec i s = .refused r := by
  obtain ⟨r, hr⟩ := (s.writeCsr_refused c _).mpr hw
  have hexec := State.csrAnswers_of_resolveCsr hc i hi
  rw [if_pos rfl, hr] at hexec
  exact ⟨r, hexec⟩

/-- An instruction that does not answer a next state is a CSR instruction whose permitted write is refused. -/
theorem exec_next_or_refused (i : Instr) (s : State) :
    (∃ t, exec i s = .next t) ∨
    (∃ a c r, csrOperand i = some (a, true) ∧ s.resolveCsr a true = .ok c ∧
      s.refusesWrite c (s.csrNewValue (s.readCsr c) i) ∧ exec i s = .refused r) := by
  cases hi : csrOperand i with
  | none => exact .inl (exec_next_of_not_csr hi s)
  | some aw =>
    obtain ⟨a, w⟩ := aw
    rcases exec_csr_cases hi s with hnext | ⟨c, r, rfl, hc, hw, hexec⟩
    · exact .inl hnext
    · exact .inr ⟨a, c, r, rfl, hc, hw, hexec⟩

/-- Settles O9: an instruction stops only where a CSR refuses the value it may write. -/
theorem tableInstructionsStopOnlyOnRefusedCsrWrites : Obligations.TableInstructionsStopOnlyOnRefusedCsrWrites := by
  unfold Obligations.TableInstructionsStopOnlyOnRefusedCsrWrites
  intro i s
  refine ⟨fun hi => exec_next_of_not_csr hi s, fun f hf => ?_, fun ⟨r, hr⟩ => ?_, ?_⟩
  · rcases exec_next_or_refused i s with ⟨t, ht⟩ | ⟨a, c, r, -, -, -, hr⟩
    · cases ht.symm.trans hf
    · cases hr.symm.trans hf
  · rcases exec_next_or_refused i s with ⟨t, ht⟩ | ⟨a, c, -, hi, hc, hw, -⟩
    · cases ht.symm.trans hr
    · exact ⟨a, c, hi, hc, hw⟩
  · rintro ⟨a, c, hi, hc, hw⟩
    exact exec_refused_of_refusesWrite hi hc hw

end Sys2Proof.Machine

/-! ## Scope, part 4: a write of `hstatus` as read back (10_state.md R33, R34, R38, 40_csr_access.md R227) -/

namespace Sys2Proof.Machine

/-- The low half of `hstatus` as read. -/
theorem State.bit_readHstatus_low (s : State) {i : Nat} (hi : i < 32) :
    bit s.readHstatus i =
      if 12 ≤ i ∧ i < 18 then decide (s.cfg.geilen ≠ 0) && bit s.hyp.hstatus i
      else bit hstatusFields i && bit s.hyp.hstatus i := by
  have hwidth : bit (widthField s.cfg.hsxlen s.vsxl) i = false := by
    cases s.cfg.hsxlen with
    | x32 => exact bit_zero i
    | x64 => exact (bit_setField_out _ _ _ _ _ (by omega) (by omega)).trans (bit_zero i)
  have hvgein : ∀ j, j < 32 → 12 ≤ j ∧ j < 18 → bit hstatusFields j = true := by decide
  unfold State.readHstatus
  dsimp only
  by_cases hg : s.cfg.geilen = 0
  · rw [if_pos hg, bit_setField _ _ _ _ _ (by omega)]
    by_cases hv : 12 ≤ i ∧ i < 18
    · simp [hv, hg]
    · simp [hv, hwidth, Bool.and_comm]
  · rw [if_neg hg]
    by_cases hv : 12 ≤ i ∧ i < 18
    · simp [hv, hg, hwidth, hvgein i hi hv]
    · simp [hv, hwidth, Bool.and_comm]

/-- VSXL as read at HSXLEN = 64. -/
theorem State.vsxl_readHstatus {s : State} (hx : s.cfg.hsxlen = .x64) : field s.readHstatus 32 2 = s.vsxl := by
  have hread : field s.readHstatus 32 2 = field (setField 0 32 2 s.vsxl) 32 2 := by
    refine field_congr _ _ fun j hj => ?_
    have hfields : ∀ j, j < 2 → bit hstatusFields (32 + j) = false := by decide
    unfold State.readHstatus
    rw [hx]
    dsimp only [widthField]
    split
    · rw [bit_setField_out _ _ _ _ _ (by omega) (by omega)]; simp [hfields j hj]
    · simp [hfields j hj]
  rw [hread, field_setField _ _ _ _ (by omega)]
  exact Nat.mod_eq_of_lt (field_lt _ _ _)

@[simp] theorem State.readHstatus_resizeVs (s : State) (old : Xlen) : (s.resizeVs old).readHstatus = s.readHstatus := by
  rw [State.resizeVs_eq]
  rfl

/-- Each bit of the low half of `hstatus` reads back as written, is hardwired, or is none of its fields. -/
theorem State.bit_readHstatus_storeHstatus (s : State) (w : Word) {i : Nat} (hi : i < 32) :
    bit (s.storeHstatus w).readHstatus i =
      if 12 ≤ i ∧ i < 18 then decide (s.cfg.geilen ≠ 0) && bit w i
      else if i = 5 then s.cfg.vsbeWritable && bit w 5
      else bit 0x007003C0 i && bit w i := by
  have hfields : ∀ j, j < 32 → ¬ (12 ≤ j ∧ j < 18) → j ≠ 5 → bit hstatusFields j = bit 0x007003C0 j := by decide
  have hbit5 : bit hstatusFields 5 = true := by decide
  rw [State.bit_readHstatus_low _ hi, show (s.storeHstatus w).hyp.hstatus = s.hstatusImage w from rfl,
    s.bit_hstatusImage_low w hi, show (s.storeHstatus w).cfg = s.cfg from rfl]
  by_cases hv : 12 ≤ i ∧ i < 18
  · simp [hv]
  · by_cases h5 : i = 5
    · subst h5; simp [hbit5]
    · rw [if_neg hv, if_neg hv, if_neg hv, if_neg h5, if_neg h5, hfields i hi hv h5]
      cases bit 0x007003C0 i <;> rfl

/-- VGEIN reads back as written, or 0 where it is hardwired. -/
theorem State.vgein_readHstatus_storeHstatus (s : State) (w : Word) :
    field (s.storeHstatus w).readHstatus 12 6 = if s.cfg.geilen = 0 then 0 else field w 12 6 := by
  rw [← s.vgein_hstatusImage w]
  refine field_congr _ _ fun j hj => ?_
  rw [s.bit_readHstatus_storeHstatus w (by omega), s.bit_hstatusImage_low w (by omega), if_pos (by omega),
    if_pos (by omega)]

/-- VSXL reads back as some legal width code, the written one where that is legal (10_state.md R34). -/
theorem State.vsxl_storeHstatus {s : State} (hc : s.cfg.valid = true) (hx : s.cfg.hsxlen = .x64) (w : Word) :
    (s.storeHstatus w).vsxl ∈ s.cfg.vsxlLegal ∧
      (field w 32 2 ∈ s.cfg.vsxlLegal → (s.storeHstatus w).vsxl = field w 32 2) := by
  rw [show (s.storeHstatus w).vsxl = s.vsxlImage w from State.vsxl_hstatusImage hc hx w]
  exact ⟨legalize_mem (Config.vsxlLegal_of_valid hc).1 _ _, legalize_of_mem _⟩

/-- `vsatp` legalized keeps a MODE that is supported. -/
theorem State.vsatpLegal_mode_of_mem {s : State} {w : Word} (h : satpMode s.vsxlen w ∈ vsatpModesAt s.cfg s.vsxlen) :
    satpMode s.vsxlen (s.vsatpLegal w) = satpMode s.vsxlen w := by
  have ha : satpAsid s.vsxlen w < 2 ^ asidWidth s.vsxlen := by cases s.vsxlen <;> exact field_lt _ _ _
  have hp : satpPpn s.vsxlen w < 2 ^ ppnWidth s.vsxlen := by cases s.vsxlen <;> exact field_lt _ _ _
  unfold State.vsatpLegal State.vsatpFields warlField
  dsimp only
  rw [legalize_of_mem _ h]
  exact (satpImage_fields (vsatpModesAt_lt h) (warlAbove_lt _ _ ha) (warlAbove_lt _ _ hp)).1

/-- What fitting the VS CSRs to another width changes: UXL, where it came to exist, and `vsatp`, which then holds a supported
MODE, its own where that is supported. -/
theorem State.resizeVs_vs_spec {s : State} {old : Xlen} (h : s.vsxlen ≠ old) :
    (s.resizeVs old).vs =
        { s.vs with vsstatus := (s.resizeVs old).vs.vsstatus, vsatp := (s.resizeVs old).vs.vsatp } ∧
      (∀ i, i ≠ 32 → i ≠ 33 → bit (s.resizeVs old).vs.vsstatus i = bit s.vs.vsstatus i) ∧
      (old = .x64 → (s.resizeVs old).vs.vsstatus = s.vs.vsstatus) ∧
      (old = .x32 → field (s.resizeVs old).vs.vsstatus 32 2 = if 2 ∈ s.cfg.uxlLegal then 2 else 1) ∧
      (s.cfg.valid = true →
        satpMode s.vsxlen (s.resizeVs old).vs.vsatp ∈ vsatpModesAt s.cfg s.vsxlen ∧
        (satpMode s.vsxlen s.vs.vsatp ∈ vsatpModesAt s.cfg s.vsxlen →
          satpMode s.vsxlen (s.resizeVs old).vs.vsatp = satpMode s.vsxlen s.vs.vsatp)) := by
  rw [State.resizeVs_vs_of_ne h]
  refine ⟨rfl, fun i h32 h33 => ?_, fun ho => ?_, fun ho => ?_, fun hc => ?_⟩
  · dsimp only
    split
    · exact bit_setField_out _ _ _ _ _ (by omega) (by omega)
    · rfl
  · subst ho; rfl
  · dsimp only
    rw [if_pos ho, field_setField _ _ _ _ (by omega)]
    by_cases hu : 2 ∈ s.cfg.uxlLegal <;> simp [widestUxl, hu]
  · exact ⟨State.vsatpLegal_mode (Config.vsatpModesAt_ne_nil hc _) _, State.vsatpLegal_mode_of_mem⟩

/-- Settles O56: a write of `hstatus` whose VGEIN is legal stores its fields, then fits the VS CSRs to the new VSXLEN. -/
theorem hstatusWriteStoresItsFieldsAndRefusesIllegalVgein :
    Obligations.HstatusWriteStoresItsFieldsAndRefusesIllegalVgein := by
  unfold Obligations.HstatusWriteStoresItsFieldsAndRefusesIllegalVgein
  intro s w _
  rw [State.writeCsr_hstatus]
  refine ⟨fun hg hlt => if_pos ⟨hg, hlt⟩, fun hle => ?_⟩
  rw [if_neg (by omega)]
  refine ⟨_, rfl, ?_⟩
  rw [show ((s.storeHstatus w).resizeVs s.vsxlen).readCsr .hstatus = (s.storeHstatus w).readHstatus from
    State.readHstatus_resizeVs _ _]
  simp only [State.resizeVs_vsxl, State.resizeVs_vsxlen, State.resizeVs_mach, State.resizeVs_sup]
  refine ⟨fun i hi => ?_, s.vgein_readHstatus_storeHstatus w, s.bit_readHstatus_storeHstatus w (by omega),
    fun i hi hnot => ?_, rfl, rfl, fun hc hx => ⟨State.vsxl_readHstatus hx, State.vsxl_storeHstatus hc hx w⟩,
    fun hsame => ?_, State.resizeVs_vs_spec⟩
  · have hstored : ∀ j ∈ [22, 21, 20, 9, 8, 7, 6],
        j < 32 ∧ ¬ (12 ≤ j ∧ j < 18) ∧ j ≠ 5 ∧ bit 0x007003C0 j = true := by decide
    obtain ⟨h32, hv, h5, hm⟩ := hstored i hi
    rw [s.bit_readHstatus_storeHstatus w h32, if_neg hv, if_neg h5, hm, Bool.true_and]
  · have hzero : ∀ j, j < 32 → j ∉ [22, 21, 20, 17, 16, 15, 14, 13, 12, 9, 8, 7, 6, 5] →
        ¬ (12 ≤ j ∧ j < 18) ∧ j ≠ 5 ∧ bit 0x007003C0 j = false := by decide
    obtain ⟨hv, h5, hm⟩ := hzero i hi hnot
    rw [s.bit_readHstatus_storeHstatus w hi, if_neg hv, if_neg h5, hm, Bool.false_and]
  · rw [State.resizeVs_same hsame]
    rfl

end Sys2Proof.Machine

/-! ## State, part 1: M-mode is never in the guest (10_state.md R22) -/

namespace Sys2Proof.Machine

/-- An SPP bit never names M-mode. -/
theorem privOfBit_ne_m (b : Bool) : privOfBit b ≠ .m := by cases b <;> decide

/-- A trap into M-mode leaves V = 0, and no other goes there. -/
theorem State.enter_modeLegal (s : State) (g : Target) (t : Trap) (epc : Word) : (s.enter g t epc).modeLegal := by
  cases g with
  | machine => exact fun _ => rfl
  | hyper => exact fun hm => Priv.noConfusion hm
  | guest => exact fun hm => Priv.noConfusion hm

/-- MRET to M-mode leaves V = 0 whatever MPV holds. -/
theorem State.returnMachine_modeLegal (s : State) : s.returnMachine.modeLegal := by
  intro hm
  rw [State.returnMachine_priv] at hm
  rw [State.returnMachine_v, hm]
  rfl

/-- Where the mode stays, so does its legality. -/
theorem State.modeLegal_of_same {s t : State} (hp : t.priv = s.priv) (hv : t.v = s.v) (hs : s.modeLegal) :
    t.modeLegal := by
  unfold State.modeLegal
  rw [hp, hv]
  exact hs

/-- Settles O11: traps and returns alone change the mode, and none of them reaches M-mode with V = 1. -/
theorem everyStepKeepsMachineModeOutOfTheGuest : Obligations.EveryStepKeepsMachineModeOutOfTheGuest := by
  unfold Obligations.EveryStepKeepsMachineModeOutOfTheGuest
  apply step_keeps
  case hplat => exact fun s => State.modeLegal_of_same rfl rfl
  case hwalk => exact fun s t h => State.modeLegal_of_same h.priv h.v
  case hreg => exact fun s r w => State.modeLegal_of_same rfl rfl
  case hpc => exact fun s => State.modeLegal_of_same rfl rfl
  case hmem => exact fun s cells => State.modeLegal_of_same rfl rfl
  case hfence => exact fun s scope => State.modeLegal_of_same rfl rfl
  case htrap => exact fun s p _ _ _ => s.enter_modeLegal _ p _
  case hint => exact fun s g c _ _ => s.enter_modeLegal g _ _
  case hcsr =>
    intro s t c w hs h
    have hframe := State.writeCsr_frame h
    exact State.modeLegal_of_same hframe.priv hframe.v hs
  case hguest => exact fun s _ _ hm => absurd hm (privOfBit_ne_m _)
  case hhyper => exact fun s _ _ hm => absurd hm (privOfBit_ne_m _)
  case hmachine => exact fun s _ _ => s.returnMachine_modeLegal

end Sys2Proof.Machine

/-! ## State, part 2: control addresses stay aligned (10_state.md R25, R121, R124) -/

namespace Sys2Proof.Machine

/-- A masked word is zero exactly where it has no bit of the mask. -/
theorem and_eq_zero_iff_bits {w m : Word} : w &&& m = 0 ↔ ∀ i, bit m i = true → bit w i = false := by
  constructor
  · intro h i hm
    have hbit : bit (w &&& m) i = false := by rw [h]; exact bit_zero i
    simpa [hm] using hbit
  · intro h
    refine word_eq_of_bits fun i _ => ?_
    cases hm : bit m i with
    | false => simp [hm]
    | true => simp [h i hm]

/-- Alignment is about the two low bits. -/
theorem lt_two_of_bit_epcLow {c : Config} {i : Nat} (h : bit (epcLow c) i = true) : i < 2 := by
  have hlow16 : ∀ j, j < 64 → bit 0x1 j = true → j < 2 := by decide
  have hlow32 : ∀ j, j < 64 → bit 0x3 j = true → j < 2 := by decide
  have hi : i < 64 := BitVec.lt_of_getLsbD h
  unfold epcLow at h
  split at h
  · exact hlow16 i hi h
  · exact hlow32 i hi h

/-- A word is as aligned as another with its two low bits. -/
theorem aligned_of_low {c : Config} {a b : Word} (h : ∀ i, i < 2 → bit a i = bit b i) (hb : b &&& epcLow c = 0) :
    a &&& epcLow c = 0 := by
  rw [and_eq_zero_iff_bits] at hb ⊢
  intro i hi
  rw [h i (lt_two_of_bit_epcLow hi), hb i hi]

/-- A word with its two low bits clear is aligned. -/
theorem aligned_of_low_zero {w : Word} (c : Config) (h : ∀ i, i < 2 → bit w i = false) : w &&& epcLow c = 0 :=
  and_eq_zero_iff_bits.mpr fun i hi => h i (lt_two_of_bit_epcLow hi)

/-- The two low bits of a register are there at every width. -/
theorem fit_aligned {c : Config} {w : Word} (x : Xlen) (h : w &&& epcLow c = 0) : fit x w &&& epcLow c = 0 := by
  refine aligned_of_low (fun i hi => ?_) h
  have hbits : i < x.bits := by cases x <;> simp only [Xlen.bits] <;> omega
  rw [bit_fit, decide_eq_true hbits, Bool.and_true]

/-- The low bits are the residue. -/
theorem bit_of_mod_eq {a b : Word} {k i : Nat} (h : a.toNat % 2 ^ k = b.toNat % 2 ^ k) (hi : i < k) :
    bit a i = bit b i := by
  have hbit := congrArg (·.testBit i) h
  simp only [Nat.testBit_mod_two_pow, hi, decide_true, Bool.true_and] at hbit
  exact hbit

/-- The next instruction's address has the two low bits of this one's. -/
theorem bit_add_four (w : Word) {i : Nat} (hi : i < 2) : bit (w + 4) i = bit w i := by
  refine bit_of_mod_eq (k := 2) ?_ hi
  rw [BitVec.toNat_add, show (4 : Word).toNat = 4 from rfl]
  omega

/-- An exception pc register holds an aligned address after a write. -/
theorem epcImage_aligned (c : Config) (x : Xlen) (w : Word) : epcImage c x w &&& epcLow c = 0 := by
  refine fit_aligned x (and_eq_zero_iff_bits.mpr fun i hi => ?_)
  rw [bit_merge, if_pos hi]
  exact bit_zero i

/-- A trap vector register has MODE bit 1 clear after a write. -/
theorem bit_one_tvecImage (x : Xlen) (w : Word) : bit (tvecImage x w) 1 = false := by
  have hmask : bit 0x2 1 = true := by decide
  rw [tvecImage, bit_fit, bit_merge, if_pos hmask]
  rfl

/-- A trap handler's address is aligned. -/
theorem trapVector_aligned (c : Config) (x : Xlen) (tvec : Word) (isInt : Bool) (code : Nat) :
    trapVector x tvec isInt code &&& epcLow c = 0 :=
  aligned_of_low_zero c fun i hi => bit_trapVector_low x tvec isInt code i hi

/-- Where the control addresses stay, so does their alignment. -/
theorem State.controlAligned_of_same {s t : State} (hcfg : t.cfg = s.cfg) (hpc : t.pc = s.pc) (hvs : t.vs = s.vs)
    (hsup : t.sup = s.sup) (hmach : t.mach = s.mach) (hs : s.controlAligned) : t.controlAligned := by
  unfold State.controlAligned
  rw [hcfg, hpc, hvs, hsup, hmach]
  exact hs

/-- A trap saves the pc in an exception pc and goes to a trap handler. -/
theorem State.enter_controlAligned {s : State} {epc : Word} (g : Target) (t : Trap) (hs : s.controlAligned)
    (hepc : epc &&& epcLow s.cfg = 0) : (s.enter g t epc).controlAligned := by
  obtain ⟨-, hsepc, hvsepc, hmepc, hstvec, hvstvec, hmtvec⟩ := hs
  have hpc := trapVector_aligned s.cfg
  cases g with
  | machine => exact ⟨hpc _ _ _ _, hsepc, hvsepc, fit_aligned _ hepc, hstvec, hvstvec, hmtvec⟩
  | hyper => exact ⟨hpc _ _ _ _, fit_aligned _ hepc, hvsepc, hmepc, hstvec, hvstvec, hmtvec⟩
  | guest => exact ⟨hpc _ _ _ _, hsepc, fit_aligned _ hepc, hmepc, hstvec, hvstvec, hmtvec⟩

/-- A write of `hstatus` resizes the VS CSRs but leaves `vsepc` and `vstvec`. -/
theorem State.resizeVs_vsepc (s : State) (old : Xlen) : (s.resizeVs old).vs.vsepc = s.vs.vsepc := by
  unfold State.resizeVs
  split <;> rfl

theorem State.resizeVs_vstvec (s : State) (old : Xlen) : (s.resizeVs old).vs.vstvec = s.vs.vstvec := by
  unfold State.resizeVs
  split <;> rfl

/-- A CSR write keeps the control addresses aligned: it cuts those it stores. -/
theorem State.writeCsr_controlAligned {s t : State} {c : Csr} {w : Word} (hs : s.controlAligned)
    (h : s.writeCsr c w = .ok t) : t.controlAligned := by
  obtain ⟨hpc, hsepc, hvsepc, hmepc, hstvec, hvstvec, hmtvec⟩ := hs
  cases c with
  | sepc => cases h; exact ⟨hpc, epcImage_aligned _ _ w, hvsepc, hmepc, hstvec, hvstvec, hmtvec⟩
  | vsepc => cases h; exact ⟨hpc, hsepc, epcImage_aligned _ _ w, hmepc, hstvec, hvstvec, hmtvec⟩
  | mepc => cases h; exact ⟨hpc, hsepc, hvsepc, epcImage_aligned _ _ w, hstvec, hvstvec, hmtvec⟩
  | stvec => cases h; exact ⟨hpc, hsepc, hvsepc, hmepc, bit_one_tvecImage _ w, hvstvec, hmtvec⟩
  | vstvec => cases h; exact ⟨hpc, hsepc, hvsepc, hmepc, hstvec, bit_one_tvecImage _ w, hmtvec⟩
  | mtvec => cases h; exact ⟨hpc, hsepc, hvsepc, hmepc, hstvec, hvstvec, bit_one_tvecImage _ w⟩
  | hstatus =>
    have hframe := State.writeCsr_frame h
    rw [State.writeHstatus_ok h] at hframe ⊢
    unfold State.controlAligned
    rw [hframe.cfg, hframe.pc, State.resizeVs_vsepc, State.resizeVs_vstvec, State.resizeVs_sup, State.resizeVs_mach]
    exact ⟨hpc, hsepc, hvsepc, hmepc, hstvec, hvstvec, hmtvec⟩
  | vscause | misa =>
    simp only [State.writeCsr] at h
    split at h <;> cases h
    exact ⟨hpc, hsepc, hvsepc, hmepc, hstvec, hvstvec, hmtvec⟩
  | _ => cases h; exact ⟨hpc, hsepc, hvsepc, hmepc, hstvec, hvstvec, hmtvec⟩

/-- Settles O13: the pc moves on by 4, to a trap vector, or back to an exception pc, and each of these is aligned. -/
theorem everyStepKeepsControlAddressesAligned : Obligations.EveryStepKeepsControlAddressesAligned := by
  unfold Obligations.EveryStepKeepsControlAddressesAligned
  apply step_keeps
  case hplat => exact fun s => State.controlAligned_of_same rfl rfl rfl rfl rfl
  case hwalk => exact fun s t h => State.controlAligned_of_same h.cfg h.pc h.vs h.sup h.mach
  case hreg => exact fun s r w => State.controlAligned_of_same rfl rfl rfl rfl rfl
  case hpc =>
    rintro s ⟨hpc, hrest⟩
    exact ⟨fit_aligned _ (aligned_of_low (fun i => bit_add_four s.pc) hpc), hrest⟩
  case hmem => exact fun s cells => State.controlAligned_of_same rfl rfl rfl rfl rfl
  case hfence => exact fun s scope => State.controlAligned_of_same rfl rfl rfl rfl rfl
  case htrap => exact fun s p hs _ _ => State.enter_controlAligned _ p hs hs.1
  case hint => exact fun s g c _ hs => State.enter_controlAligned g _ hs hs.1
  case hcsr => exact fun s t c w hs h => State.writeCsr_controlAligned hs h
  case hguest =>
    rintro s - ⟨-, hsepc, hvsepc, hrest⟩
    exact ⟨fit_aligned _ hvsepc, hsepc, hvsepc, hrest⟩
  case hhyper =>
    rintro s - ⟨-, hsepc, hvsepc, hmepc, hstvec, hvstvec, hmtvec⟩
    exact ⟨fit_aligned _ hsepc, hsepc, hvsepc, hmepc, hstvec, hvstvec, hmtvec⟩
  case hmachine =>
    rintro s - ⟨-, hsepc, hvsepc, hmepc, hrest⟩
    exact ⟨fit_aligned _ hmepc, hsepc, hvsepc, hmepc, hrest⟩

end Sys2Proof.Machine

/-! ## State, part 3: `scause` and `mcause` hold listed codes (10_state.md R125, 60_exceptions.md R320, R325) -/

namespace Sys2Proof.Machine

/-- The codes a trap can have: exceptions of R320, interrupts of R325. -/
def Trap.codeListed (t : Trap) : Prop := t.code ∈ if t.isInt then intCodes else excCodes

/-- The cause word of a listed code is a listed cause. -/
theorem causeLegal_causeWord (x : Xlen) {t : Trap} (h : t.codeListed) :
    causeLegal x (causeWord x t.isInt t.code) = true := by
  have hexc : ∀ n ∈ excCodes, causeLegal .x32 (causeWord .x32 false n) = true ∧
      causeLegal .x64 (causeWord .x64 false n) = true := by decide
  have hint : ∀ n ∈ intCodes, causeLegal .x32 (causeWord .x32 true n) = true ∧
      causeLegal .x64 (causeWord .x64 true n) = true := by decide
  unfold Trap.codeListed at h
  cases hi : t.isInt <;> rw [hi] at h
  · cases x
    · exact (hexc _ h).1
    · exact (hexc _ h).2
  · cases x
    · exact (hint _ h).1
    · exact (hint _ h).2

/-- An interrupt that is taken has a listed code. -/
theorem State.interrupt_code_mem {s : State} {g : Target} {c : Nat} (h : s.interrupt = some (g, c)) : c ∈ intCodes := by
  have hmachine : ∀ i ∈ machineOrder, i ∈ intCodes := by decide
  have hhyper : ∀ i ∈ hyperOrder, i ∈ intCodes := by decide
  have hguest : ∀ i ∈ guestOrder, i ∈ intCodes := by decide
  rcases State.interrupt_some h with ⟨-, -, hc, -⟩ | ⟨-, -, hc, -⟩ | ⟨-, -, hc, -⟩
  · exact hmachine c hc
  · exact hhyper c hc
  · exact hguest c hc

/-- Where the two registers stay, so does what they hold. -/
theorem State.causesLegal_of_same {s t : State} (hcfg : t.cfg = s.cfg) (hsup : t.sup.scause = s.sup.scause)
    (hmach : t.mach.mcause = s.mach.mcause) (hs : s.causesLegal) : t.causesLegal := by
  unfold State.causesLegal
  rw [hcfg, hsup, hmach]
  exact hs

/-- A trap with a listed code leaves a listed cause. -/
theorem State.enter_causesLegal {s : State} {t : Trap} (g : Target) (epc : Word) (hs : s.causesLegal)
    (ht : t.codeListed) : (s.enter g t epc).causesLegal := by
  obtain ⟨hscause, hmcause⟩ := hs
  cases g with
  | machine => exact ⟨hscause, causeLegal_causeWord _ ht⟩
  | hyper => exact ⟨causeLegal_causeWord _ ht, hmcause⟩
  | guest => exact ⟨hscause, hmcause⟩

/-- A write of any CSR but the two leaves them. -/
theorem State.writeCsr_causesLegal {s t : State} {c : Csr} {w : Word} (hs : s.causesLegal)
    (h : s.writeCsr c w = .ok t) (hc : c ≠ .scause) (hm : c ≠ .mcause) : t.causesLegal := by
  cases c with
  | scause => exact absurd rfl hc
  | mcause => exact absurd rfl hm
  | hstatus =>
    refine State.causesLegal_of_same (State.writeCsr_frame h).cfg ?_ ?_ hs <;>
      rw [State.writeHstatus_ok h]
    · rw [State.resizeVs_sup]
    · rw [State.resizeVs_mach]
  | vscause | misa =>
    simp only [State.writeCsr] at h
    split at h <;> cases h
    exact State.causesLegal_of_same rfl rfl rfl hs
  | _ => cases h; exact State.causesLegal_of_same rfl rfl rfl hs

/-- A CSR that is no counter stands in the table at its address. -/
theorem mem_csrTable_of_csrAt {a : CsrAddr} {c : Csr} (h : csrAt a = some c) (hn : ∀ n, c ≠ .counter n)
    (hh : ∀ n, c ≠ .counterh n) : (a.toNat, c) ∈ csrTable := by
  unfold csrAt at h
  split at h
  · cases h; exact absurd rfl (hn _)
  · split at h
    · cases h; exact absurd rfl (hh _)
    · obtain ⟨before, after, htable, -⟩ := List.lookup_eq_some_iff.mp h
      rw [htable]
      exact List.mem_append_right _ List.mem_cons_self

/-- `scause` is at 0x142. -/
theorem csrAt_eq_scause {a : CsrAddr} (h : csrAt a = some .scause) : a = 0x142 := by
  have htable : ∀ p ∈ csrTable, p.2 = .scause → p.1 = 0x142 := by decide
  have hmem := mem_csrTable_of_csrAt h (by simp) (by simp)
  exact BitVec.eq_of_toNat_eq (htable _ hmem rfl)

/-- `mcause` is at 0x342. -/
theorem csrAt_eq_mcause {a : CsrAddr} (h : csrAt a = some .mcause) : a = 0x342 := by
  have htable : ∀ p ∈ csrTable, p.2 = .mcause → p.1 = 0x342 := by decide
  have hmem := mem_csrTable_of_csrAt h (by simp) (by simp)
  exact BitVec.eq_of_toNat_eq (htable _ hmem rfl)

/-- A CSR instruction reaches the register of the address it names, in a mode its class allows, or at V = 1 a replica. -/
theorem State.resolveCsr_ok {s : State} {a : CsrAddr} {w : Bool} {c : Csr} (h : s.resolveCsr a w = .ok c) :
    (csrAt a = some c ∧ (c.cls = .machine → s.priv = .m) ∧ (∀ r, c.cls = .sup r → s.v = false ∧ s.priv ≠ .u)) ∨
    (∃ d : Csr, d.cls = .sup c ∧ s.v = true) := by
  unfold State.resolveCsr at h
  split at h
  · cases h
  next d hd =>
  split at h
  · cases h
  split at h
  · cases h
  split at h
  case h_1 hcls =>
    split at h <;> cases h
    exact .inl ⟨hd, fun _ => by assumption, fun r hr => by rw [hcls] at hr; cases hr⟩
  case h_2 n hcls =>
    split at h <;> cases h
    exact .inl ⟨hd, fun hm => (by rw [hcls] at hm; cases hm), fun r hr => by rw [hcls] at hr; cases hr⟩
  case h_3 hcls | h_4 hcls =>
    repeat' split at h
    all_goals cases h
    exact .inl ⟨hd, fun hm => (by rw [hcls] at hm; cases hm), fun r hr => by rw [hcls] at hr; cases hr⟩
  case h_5 replica hcls =>
    split at h
    · next hv =>
      repeat' split at h
      all_goals cases h
      exact .inr ⟨d, hcls, hv⟩
    · next hv =>
      split at h
      · cases h
      · next hu =>
        split at h <;> cases h
        exact .inl ⟨hd, fun hm => (by rw [hcls] at hm; cases hm), fun _ _ => ⟨by simpa using hv, hu⟩⟩
  case h_6 hcls =>
    split at h <;> cases h
    exact .inl ⟨hd, fun hm => (by rw [hcls] at hm; cases hm), fun r hr => by rw [hcls] at hr; cases hr⟩

/-- Neither register stands in for another at V = 1. -/
theorem Csr.cls_ne_sup_scause (c : Csr) : c.cls ≠ .sup .scause := by cases c <;> simp [Csr.cls]

theorem Csr.cls_ne_sup_mcause (c : Csr) : c.cls ≠ .sup .mcause := by cases c <;> simp [Csr.cls]

/-- A CSR instruction reaches `scause` only at its address, at V = 0 above U-mode. -/
theorem State.resolveCsr_scause {s : State} {a : CsrAddr} {w : Bool} (h : s.resolveCsr a w = .ok .scause) :
    a = 0x142 ∧ s.v = false ∧ s.priv ≠ .u := by
  rcases State.resolveCsr_ok h with ⟨hat, -, hsup⟩ | ⟨d, hcls, -⟩
  · exact ⟨csrAt_eq_scause hat, hsup .vscause rfl⟩
  · exact absurd hcls d.cls_ne_sup_scause

/-- A CSR instruction reaches `mcause` only at its address, in M-mode. -/
theorem State.resolveCsr_mcause {s : State} {a : CsrAddr} {w : Bool} (h : s.resolveCsr a w = .ok .mcause) :
    a = 0x342 ∧ s.priv = .m := by
  rcases State.resolveCsr_ok h with ⟨hat, hmach, -⟩ | ⟨d, hcls, -⟩
  · exact ⟨csrAt_eq_mcause hat, hmach rfl⟩
  · exact absurd hcls d.cls_ne_sup_mcause

/-- Settles O15: a step other than such a CSR instruction leaves the two registers or the cause of a listed trap in them. -/
theorem everyStepKeepsCauseRegistersLegal : Obligations.EveryStepKeepsCauseRegistersLegal := by
  unfold Obligations.EveryStepKeepsCauseRegistersLegal
  intro s t hs hstep
  have hkeeps : t.causesLegal ∨
      ∃ w s' i a c v u rd z, s.interrupt = none ∧ s.fetch = .word w s' ∧ Walked s s' ∧ decode w = .ok i ∧
        csrOperand i = some (a, true) ∧ s'.resolveCsr a true = .ok c ∧ s'.writeCsr c v = .ok u ∧
        t = ((u.setX rd z).advance).platformStep := by
    refine step_keeps_or_writes ?hplat ?hwalk ?hreg ?hpc ?hmem ?hfence ?htrap ?hint ?hguest ?hhyper ?hmachine s t hs hstep
    case hplat => exact fun s => State.causesLegal_of_same rfl rfl rfl
    case hwalk => exact fun s t h => State.causesLegal_of_same h.cfg (by rw [h.sup]) (by rw [h.mach])
    case hreg => exact fun s r w => State.causesLegal_of_same rfl rfl rfl
    case hpc => exact fun s => State.causesLegal_of_same rfl rfl rfl
    case hmem => exact fun s cells => State.causesLegal_of_same rfl rfl rfl
    case hfence => exact fun s scope => State.causesLegal_of_same rfl rfl rfl
    case htrap =>
      intro s p hs hi hc
      refine State.enter_causesLegal _ _ hs ?_
      unfold Trap.codeListed
      rwa [hi]
    case hint => exact fun s g c hi hs => State.enter_causesLegal g _ hs (State.interrupt_code_mem hi)
    case hguest => exact fun s _ => State.causesLegal_of_same rfl rfl rfl
    case hhyper => exact fun s _ => State.causesLegal_of_same rfl rfl rfl
    case hmachine => exact fun s _ => State.causesLegal_of_same rfl rfl rfl
  rcases hkeeps with hlegal | ⟨w, s', i, a, c, v, u, rd, z, hint, hfetch, hw, hd, ha, hc, hu, rfl⟩
  · exact .inl hlegal
  by_cases hscause : c = .scause
  · subst hscause
    obtain ⟨haddr, hv, hp⟩ := State.resolveCsr_scause hc
    rw [hw.v] at hv
    rw [hw.priv] at hp
    exact .inr ⟨hint, w, s', i, a, hfetch, hd, ha, .inl ⟨haddr, hv, hp⟩⟩
  by_cases hmcause : c = .mcause
  · subst hmcause
    obtain ⟨haddr, hp⟩ := State.resolveCsr_mcause hc
    rw [hw.priv] at hp
    exact .inr ⟨hint, w, s', i, a, hfetch, hd, ha, .inr ⟨haddr, hp⟩⟩
  have hs' : s'.causesLegal := State.causesLegal_of_same hw.cfg (by rw [hw.sup]) (by rw [hw.mach]) hs
  have hu' : u.causesLegal := State.writeCsr_causesLegal hs' hu hscause hmcause
  exact .inl (State.causesLegal_of_same rfl rfl rfl hu')

end Sys2Proof.Machine

/-! ## State, part 4: the reset state is sound (70_reset_and_hazards.md R400, R402) -/

namespace Sys2Proof.Machine

/-- An admissible implementation resets to an aligned pc. -/
theorem Config.resetPc_aligned {c : Config} (hc : c.valid = true) : c.resetPc &&& epcLow c = 0 := by
  have hlow1 : ∀ i, i < 64 → bit 0x1 i = true → i < 1 := by decide
  simp only [Config.valid, Bool.and_eq_true] at hc
  obtain ⟨-, hpc⟩ := hc
  refine and_eq_zero_iff_bits.mpr fun i hi => ?_
  rw [← bit_zero i]
  cases ha : c.ialign <;> simp only [ha, beq_iff_eq] at hpc
  · simp only [epcLow, ha] at hi
    exact bit_of_mod_eq (k := 1) hpc (hlow1 i (BitVec.lt_of_getLsbD hi) hi)
  · exact bit_of_mod_eq (k := 2) hpc (lt_two_of_bit_epcLow hi)

/-- The first width code of an admissible set is one of the two; the model takes 64 bits where the set is empty. -/
theorem headD_widthCode {l : List Nat} (h : ∀ n ∈ l, n = 1 ∨ n = 2) : l.headD 2 = 1 ∨ l.headD 2 = 2 := by
  cases l with
  | nil => exact .inr rfl
  | cons n rest => exact h n List.mem_cons_self

/-- The width codes an admissible implementation allows, and Bare among its modes. -/
theorem Config.legalSets_of_valid {c : Config} (hc : c.valid = true) :
    (∀ n ∈ c.vsxlLegal, n = 1 ∨ n = 2) ∧ (∀ n ∈ c.uxlLegal, n = 1 ∨ n = 2) ∧ 0 ∈ c.hgatpModes ∧ 0 ∈ c.vsatpModes := by
  simp only [Config.valid, Bool.and_eq_true, List.all_eq_true, Bool.or_eq_true, beq_iff_eq, List.contains_iff_mem] at hc
  obtain ⟨⟨⟨⟨⟨⟨⟨⟨-, hvsxl⟩, -⟩, huxl⟩, hhgatp⟩, hvsatp⟩, -⟩, -⟩, -⟩ := hc
  exact ⟨hvsxl, huxl, hhgatp, hvsatp⟩

/-- Bare is a mode of `vsatp` and `satp` at every width. -/
theorem Config.bare_mem_vsatpModesAt {c : Config} (hc : c.valid = true) (x : Xlen) : 0 ∈ vsatpModesAt c x := by
  obtain ⟨-, -, -, hbare⟩ := Config.legalSets_of_valid hc
  cases x <;> simpa [vsatpModesAt] using hbare

@[simp] theorem field_zero (lo len : Nat) : field 0#64 lo len = 0 := by simp [field]

/-- A status word with nothing but a width code at bits 33:32. -/
theorem fields_of_widthCode {n : Nat} (h : n = 1 ∨ n = 2) :
    field (BitVec.ofNat 64 (n * 2 ^ 32)) 32 2 = n ∧ field (BitVec.ofNat 64 (n * 2 ^ 32)) 12 6 = 0 ∧
      field (BitVec.ofNat 64 (n * 2 ^ 32)) 11 2 = 0 := by
  rcases h with rfl | rfl <;> decide

/-- After reset VGEIN is 0 and VSXL legal. -/
theorem State.resetOf_hstatus {c : Config} (hc : c.valid = true) :
    (State.resetOf c).vgein = 0 ∧ (c.hsxlen = .x64 → (State.resetOf c).vsxl ∈ c.vsxlLegal) := by
  obtain ⟨hcodes, -⟩ := Config.legalSets_of_valid hc
  obtain ⟨hvsxl, hvgein, -⟩ := fields_of_widthCode (headD_widthCode hcodes)
  obtain ⟨hne, -⟩ := Config.vsxlLegal_of_valid hc
  unfold State.vgein State.vsxl State.resetOf
  dsimp only
  cases c.hsxlen with
  | x32 => exact ⟨field_zero 12 6, fun h => Xlen.noConfusion h⟩
  | x64 =>
    refine ⟨hvgein, fun _ => ?_⟩
    dsimp only
    rw [hvsxl]
    cases hl : c.vsxlLegal with
    | nil => exact absurd hl hne
    | cons n rest => exact List.mem_cons_self

/-- After reset MPP names U. -/
theorem State.resetOf_mpp {c : Config} (hc : c.valid = true) : (State.resetOf c).mstatusMpp = 0 := by
  obtain ⟨-, hcodes, -⟩ := Config.legalSets_of_valid hc
  obtain ⟨-, -, hmpp⟩ := fields_of_widthCode (headD_widthCode hcodes)
  unfold State.mstatusMpp State.resetOf
  dsimp only
  cases c.hsxlen with
  | x32 => exact field_zero 11 2
  | x64 => exact hmpp

theorem State.resetOf_fieldsLegal {c : Config} (hc : c.valid = true) : (State.resetOf c).fieldsLegal := by
  obtain ⟨-, -, hhgatp, -⟩ := Config.legalSets_of_valid hc
  obtain ⟨hvgein, hvsxl⟩ := State.resetOf_hstatus hc
  have hmode : ∀ x, satpMode x 0 = 0 := by intro x; cases x <;> exact field_zero _ _
  have hfields : (State.resetOf c).hgatpMode = 0 ∧ (State.resetOf c).hgatpVmid = 0 ∧ (State.resetOf c).hgatpPpn = 0 := by
    simp only [State.hgatpMode, State.hgatpVmid, State.hgatpPpn, show (State.resetOf c).hyp.hgatp = 0 from rfl]
    split <;> exact ⟨field_zero _ _, field_zero _ _, field_zero _ _⟩
  obtain ⟨hgmode, hvmid, hppn⟩ := hfields
  refine ⟨hc, ?_, ?_, ?_, ?_, hvsxl, ?_, ?_, ?_⟩
  · rw [hvgein]; exact Nat.zero_le _
  · rw [hgmode]; exact hhgatp
  · rw [hvmid]; exact Nat.two_pow_pos _
  · rw [hppn]
  · rw [show (State.resetOf c).vs.vsatp = 0 from rfl, hmode]
    exact Config.bare_mem_vsatpModesAt hc _
  · rw [show (State.resetOf c).sup.satp = 0 from rfl, hmode]
    exact Config.bare_mem_vsatpModesAt hc _
  · rw [State.resetOf_mpp hc]; decide

/-- Code 0 is a listed exception. -/
theorem causeLegal_zero (x : Xlen) : causeLegal x 0 = true := by cases x <;> decide

/-- Settles O16: at reset the CSRs are zero but for width codes and the fixed bits of `mideleg` and `misa`. -/
theorem resetStateMeetsTheInvariants : Obligations.ResetStateMeetsTheInvariants := by
  unfold Obligations.ResetStateMeetsTheInvariants
  intro c hc
  refine ⟨fun _ => rfl, rfl, ?_, State.resetOf_fieldsLegal hc, causeLegal_zero _, causeLegal_zero _⟩
  have hzero : (0 : Word) &&& epcLow c = 0 := BitVec.zero_and
  exact ⟨Config.resetPc_aligned hc, hzero, hzero, hzero, bit_zero 1, bit_zero 1, bit_zero 1⟩

end Sys2Proof.Machine

/-! ## State, part 5: a CSR write changes CSRs only (40_csr_access.md R227) -/

namespace Sys2Proof.Machine

/-- Settles O51, by the frame every CSR write has. -/
theorem csrWriteChangesOnlyCsrs : Obligations.CsrWriteChangesOnlyCsrs := by
  unfold Obligations.CsrWriteChangesOnlyCsrs
  intro s t c w h
  obtain ⟨hcfg, hregs, hpc, hpriv, hv, hcounters, hmem, hstored, htlb, hplat, htick⟩ := State.writeCsr_frame h
  exact ⟨hcfg, hregs, hpc, hpriv, hv, hcounters, hmem, hstored, htlb, hplat, htick⟩

end Sys2Proof.Machine

/-! ## State, part 6: the bits of the masks (10_state.md R51 to R54, R65, R82) -/

namespace Sys2Proof.Machine

theorem bit_of_ge (w : Word) {i : Nat} (h : 64 ≤ i) : bit w i = false := BitVec.getLsbD_of_ge w i h

/-- A mask is a list of bits where it is one below 64. -/
theorem bit_mask_eq {m : Word} {l : List Nat} (hl : ∀ i ∈ l, i < 64) (h : ∀ i, i < 64 → bit m i = decide (i ∈ l))
    (i : Nat) : bit m i = decide (i ∈ l) := by
  by_cases hi : i < 64
  · exact h i hi
  · rw [bit_of_ge m (Nat.le_of_not_lt hi), decide_eq_false fun hm => hi (hl i hm)]

theorem bit_vsMask (i : Nat) : bit vsMask i = decide (i ∈ [10, 6, 2]) := bit_mask_eq (by decide) (by decide) i

/-- Bit 12 is there where GEILEN is not 0. -/
theorem bit_hieMask (c : Config) (i : Nat) :
    bit (hieMask c) i = (decide (i ∈ [10, 6, 2]) || (i == 12 && c.geilen != 0)) := by
  unfold hieMask
  by_cases hg : c.geilen = 0
  · rw [if_pos hg, bit_mask_eq (l := [10, 6, 2]) (by decide) (by decide)]
    simp [hg]
  · rw [if_neg hg, bit_mask_eq (l := [12, 10, 6, 2]) (by decide) (by decide), Bool.eq_iff_iff]
    simp [hg]
    omega

/-- Bit 0 is there where instructions are 4-byte aligned. -/
theorem bit_hedelegMask (c : Config) (i : Nat) :
    bit (hedelegMask c) i = (decide (i ∈ [1, 2, 3, 4, 5, 6, 7, 8, 12, 13, 15]) || (i == 0 && c.ialign == .i32)) := by
  unfold hedelegMask
  cases c.ialign with
  | i16 =>
    rw [bit_mask_eq (l := [1, 2, 3, 4, 5, 6, 7, 8, 12, 13, 15]) (by decide) (by decide)]
    simp
  | i32 =>
    rw [bit_mask_eq (l := [0, 1, 2, 3, 4, 5, 6, 7, 8, 12, 13, 15]) (by decide) (by decide), Bool.eq_iff_iff]
    simp
    omega

/-- The implemented bits of `hgeip` and `hgeie` are GEILEN:1. -/
theorem bit_geiMask {c : Config} (h : c.geilen < c.hsxlen.bits) (i : Nat) :
    bit (geiMask c) i = decide (1 ≤ i ∧ i ≤ c.geilen) := by
  have hbits : c.hsxlen.bits ≤ 64 := by cases c.hsxlen <;> simp [Xlen.bits]
  have hodd : 2 ^ (c.geilen + 1) - 2 = 2 * (2 ^ c.geilen - 1) := by rw [Nat.pow_succ]; omega
  rw [geiMask, bit_fit, bit, BitVec.getLsbD_ofNat, hodd]
  cases i with
  | zero => simp
  | succ j =>
    rw [Nat.testBit_succ, Nat.mul_div_cancel_left _ (by omega : 0 < 2), Nat.testBit_two_pow_sub_one, Bool.eq_iff_iff]
    simp only [Bool.and_eq_true, decide_eq_true_eq]
    omega

end Sys2Proof.Machine

/-! ## State, part 7: delegation and guest interrupt registers (10_state.md R51, R54, R66, R82, R87, R93, R96) -/

namespace Sys2Proof.Machine

/-- A register that stores the bits of a mask and shows them. -/
theorem bit_and_and_self (w m : Word) (i : Nat) : bit (w &&& m &&& m) i = (bit w i && bit m i) := by simp

/-- A 32-bit register is held zero-extended. -/
theorem bit_setWidth_of_word32 (w : BitVec 32) (i : Nat) : bit (w.setWidth 64) i = w.getLsbD i := by
  by_cases hi : i < 64
  · simp [bit, hi]
  · rw [bit_of_ge _ (Nat.le_of_not_lt hi), BitVec.getLsbD_of_ge _ _ (by omega)]

/-- Where a bit of the stored `mie` stays, so does that of the register as read. -/
theorem State.readCsr_mie_congr {s t : State} {i : Nat} (hcfg : t.cfg = s.cfg) (h : bit t.mach.mie i = bit s.mach.mie i) :
    bit (t.readCsr .mie) i = bit (s.readCsr .mie) i := by
  simp only [State.readCsr, State.mieBits, bit_and, hcfg, h]

/-- What a legalized register reads after a write: a legal value, the written one where that is legal. -/
theorem fit_legalizeIn (x : Xlen) (holds : Word → Bool) (w choice : Word) :
    (fit x (legalizeIn x holds w choice) = 0 ∨ holds (fit x (legalizeIn x holds w choice)) = true) ∧
      (fit x (legalizeIn x holds w choice) = fit x w ∨ fit x w ≠ 0 ∧ holds (fit x w) = false) := by
  obtain ⟨hlegal, hfit, hkept⟩ := legalizeIn_spec x holds w choice
  rw [hfit]
  refine ⟨hlegal, ?_⟩
  by_cases hw : fit x w = 0 ∨ holds (fit x w) = true
  · exact .inl (hkept hw)
  · exact .inr (by simpa using hw)

theorem fit_zero (x : Xlen) : fit x 0 = 0 := by cases x <;> rfl

/-- `htinst` holds only 0 where the implementation writes no other value. -/
theorem legalizeHtinst_of_zeroOnly {c : Config} (h : c.htinstNonzero = false) (w old : Word) :
    legalizeHtinst c w old = 0 := by
  simp [legalizeHtinst, h]

theorem legalizeHtinst_of_nonzero {c : Config} (h : c.htinstNonzero = true) (w old : Word) :
    legalizeHtinst c w old = legalizeIn c.hsxlen Config.htinstHolds w (Config.legalizeHtinst w old) := by
  simp [legalizeHtinst, h]

/-- Settles O52: each register stores its mask's bits of the written value, or a legal value. -/
theorem delegationAndGuestInterruptBitsAreAsTabled : Obligations.DelegationAndGuestInterruptBitsAreAsTabled := by
  unfold Obligations.DelegationAndGuestInterruptBitsAreAsTabled
  refine ⟨fun s w => ⟨?_, ?_, ?_, ?_, ?_, ?_⟩, fun s hg => ⟨fun w => ?_, fun i => ?_⟩⟩
  · refine ⟨_, rfl, fun i => ?_⟩
    rw [← bit_hedelegMask]
    exact bit_and_and_self w _ i
  · refine ⟨_, rfl, fun i => ?_⟩
    rw [← bit_vsMask]
    exact bit_and_and_self w _ i
  · refine ⟨_, rfl, fun i => ?_, fun i hi => State.readCsr_mie_congr rfl ?_⟩
    · show bit (merge (hieMask s.cfg) w s.mach.mie &&& hieMask s.cfg) i = _
      rw [← bit_hieMask, bit_and, bit_merge]
      cases bit (hieMask s.cfg) i <;> simp
    · have hmask : bit (hieMask s.cfg) i = false := by rw [bit_hieMask]; simp at hi ⊢; omega
      show bit (merge (hieMask s.cfg) w s.mach.mie) i = _
      rw [bit_merge, hmask]
      rfl
  · refine ⟨_, rfl, fun i => ?_⟩
    refine (bit_setWidth_of_word32 _ i).trans ?_
    show (w.setWidth 32 &&& s.cfg.hcounterenMask).getLsbD i = _
    rw [BitVec.getLsbD_and, BitVec.getLsbD_setWidth]
    by_cases hi : i < 32
    · rw [decide_eq_true hi, Bool.true_and]
      rfl
    · simp [BitVec.getLsbD_of_ge s.cfg.hcounterenMask i (Nat.le_of_not_lt hi)]
  · exact ⟨_, rfl, fit_legalizeIn _ _ w _⟩
  · refine ⟨_, rfl, ?_⟩
    rw [show ∀ v, (s.setHyp { s.hyp with htinst := v }).readCsr .htinst = fit s.cfg.hsxlen v from fun _ => rfl]
    cases hn : s.cfg.htinstNonzero with
    | false =>
      rw [legalizeHtinst_of_zeroOnly hn, fit_zero]
      exact ⟨.inl rfl, fun _ => rfl, fun h => Bool.noConfusion h⟩
    | true =>
      rw [legalizeHtinst_of_nonzero hn]
      obtain ⟨hlegal, hkept⟩ := fit_legalizeIn s.cfg.hsxlen Config.htinstHolds w (Config.legalizeHtinst w s.hyp.htinst)
      exact ⟨hlegal, fun h => Bool.noConfusion h, fun _ => hkept.imp_right And.right⟩
  · refine ⟨_, rfl, fun i => ?_⟩
    rw [← bit_geiMask hg]
    exact bit_and_and_self w _ i
  · rw [← bit_geiMask hg]
    exact bit_and _ _ i

end Sys2Proof.Machine

/-! ## State, part 8: `hip`, `vsip` and `vsie` (10_state.md R68 to R72, R118, R119) -/

namespace Sys2Proof.Machine

/-- `hip` as read, bit by bit. -/
theorem State.bit_hip (s : State) (i : Nat) :
    bit s.hip i =
      (s.sgeip && decide (i = 12) || (s.vseip && decide (i = 10) || (s.vstip && decide (i = 6) ||
        s.vssip && decide (i = 2)))) := by
  have hif : ∀ (b : Bool) (j : Nat), j < 64 → bit (if b then bitMask j else 0#64) i = (b && decide (i = j)) := by
    intro b j hj
    cases b <;> simp [hj]
  simp [State.hip, bitsOf, hif]

/-- Bits of `hvip` as read. -/
theorem State.bit_hvipBits (s : State) (i : Nat) : bit s.hvipBits i = (bit s.hyp.hvip i && decide (i ∈ [10, 6, 2])) := by
  rw [State.hvipBits, bit_and, bit_vsMask]

/-- VSSIP is the bit of `hvip`. -/
theorem State.bit_hip_two (s : State) : bit s.hip 2 = bit s.hyp.hvip 2 := by
  rw [State.bit_hip]
  simp [State.vssip]

theorem State.bit_hvipBits_two (s : State) : bit s.hvipBits 2 = bit s.hyp.hvip 2 := by
  rw [State.bit_hvipBits]
  simp

theorem State.bit_hidelegBits (s : State) (i : Nat) :
    bit s.hidelegBits i = (bit s.hyp.hideleg i && decide (i ∈ [10, 6, 2])) := by
  rw [State.hidelegBits, bit_and, bit_vsMask]

/-- A write of one bit of `hvip`. -/
theorem State.bit_hip_setHyp_hvip (s : State) {v : Word} (h : ∀ i, i ≠ 2 → bit v i = bit s.hyp.hvip i) {i : Nat}
    (hi : i ≠ 2) : bit (s.setHyp { s.hyp with hvip := v }).hip i = bit s.hip i := by
  have hseip : (s.setHyp { s.hyp with hvip := v }).vseip = s.vseip := by
    show (bit v 10 || bit s.hgeip s.vgein || s.plat.vsei) = _
    rw [h 10 (by decide)]
    rfl
  have hstip : (s.setHyp { s.hyp with hvip := v }).vstip = s.vstip := by
    show (bit v 6 || s.plat.vsti) = _
    rw [h 6 (by decide)]
    rfl
  rw [State.bit_hip, State.bit_hip, hseip, hstip, decide_eq_false hi, Bool.and_false, Bool.and_false]
  rfl

/-- A write of `hip` changes bit 2 of `hvip` alone. -/
theorem bit_merge_bitMask_two (w old : Word) (i : Nat) :
    bit (merge (bitMask 2) w old) i = if i = 2 then bit w 2 else bit old i := by
  rw [bit_merge, bit_bitMask]
  by_cases hi : i = 2 <;> simp [hi]

/-- Settles O53: `hip` is made of four bits, of which a write reaches VSSIP, which is `hvip`'s. -/
theorem hipIsComputedFromItsSources : Obligations.HipIsComputedFromItsSources := by
  unfold Obligations.HipIsComputedFromItsSources
  intro s
  have hhip : ∀ i, bit (s.readCsr .hip) i = _ := s.bit_hip
  have hhvip : ∀ i, bit (s.readCsr .hvip) i = _ := s.bit_hvipBits
  refine ⟨?_, ?_, ?_, ?_, fun i hi => ?_, fun w => ⟨_, rfl, ?_, ?_, fun i hi => ?_⟩⟩
  · rw [hhip]; simp; rfl
  · rw [hhip, hhvip]; simp; rfl
  · rw [hhip, hhvip]; simp; rfl
  · rw [hhip, hhvip]; simp; rfl
  · simp only [List.mem_cons, List.not_mem_nil, or_false, not_or] at hi
    simp [hhip, hi]
  · exact (State.bit_hip_two _).trans (bit_merge_bitMask_two w _ 2)
  · exact (State.bit_hvipBits_two _).trans (bit_merge_bitMask_two w _ 2)
  · exact s.bit_hip_setHyp_hvip (fun j hj => by rw [bit_merge_bitMask_two, if_neg hj]) hi

end Sys2Proof.Machine

/-! ## State, part 9: `vsip` and `vsie` show bits of `hip` and `hie` (10_state.md R118, R119) -/

namespace Sys2Proof.Machine

/-- A VS CSR shows its own width to an instruction of any width. -/
theorem State.bit_vsImage (s : State) (w : Word) {i : Nat} (hi : i < s.vsxlen.bits) : bit (s.vsImage w) i = bit w i := by
  unfold State.vsImage
  split
  · next hx _ =>
    rw [hx, Xlen.bits] at hi
    have happend := BitVec.getLsbD_append (x := Config.upperOfVsCsr s.tick) (y := w.setWidth 32) (i := i)
    rw [if_pos hi, BitVec.getLsbD_setWidth, decide_eq_true hi, Bool.true_and] at happend
    exact happend
  · rw [bit_fit, decide_eq_true hi, Bool.and_true]

theorem Xlen.thirtyTwo_le_bits (x : Xlen) : 32 ≤ x.bits := by cases x <;> simp [Xlen.bits]

/-- The low half of a VS CSR is there at every width. -/
theorem State.bit_vsImage_low (s : State) (w : Word) {i : Nat} (hi : i < 32) : bit (s.vsImage w) i = bit w i :=
  s.bit_vsImage w (Nat.lt_of_lt_of_le hi (Xlen.thirtyTwo_le_bits _))

theorem bit_shiftRight_one (w : Word) (i : Nat) : bit (w >>> 1) i = bit w (i + 1) := by
  rw [bit, BitVec.getLsbD_ushiftRight, Nat.add_comm]
  rfl

theorem bit_shiftLeft_one (w : Word) {i : Nat} (hi : i + 1 < 64) : bit (w <<< 1) (i + 1) = bit w i := by
  rw [bit, BitVec.getLsbD_shiftLeft, decide_eq_true hi, decide_eq_false (by omega), Nat.add_sub_cancel]
  rfl

/-- The positions of R118: bit k of `vsip` and `vsie` is bit j of `hip` and `hie`. -/
theorem vsBitPairs_spec : ∀ p ∈ [(9, 10), (5, 6), (1, 2)], p.2 = p.1 + 1 ∧ p.1 < 31 ∧ p.2 ∈ [10, 6, 2] := by decide

/-- The VS-level bits of `hie` are those of the stored `mie`. -/
theorem State.bit_hie_vs (s : State) {j : Nat} (hj : j ∈ [10, 6, 2]) : bit s.hie j = bit s.mach.mie j := by
  rw [State.hie, bit_and, bit_hieMask, decide_eq_true hj, Bool.true_or, Bool.and_true]

theorem State.bit_readCsr_vsip (s : State) {k : Nat} (hk : k < 32) :
    bit (s.readCsr .vsip) k = (bit s.hidelegBits (k + 1) && bit s.hip (k + 1)) := by
  rw [show s.readCsr .vsip = s.vsImage s.vsip from rfl, s.bit_vsImage_low _ hk, State.vsip, bit_shiftRight_one, bit_and]

theorem State.bit_readCsr_vsie (s : State) {k : Nat} (hk : k < 32) :
    bit (s.readCsr .vsie) k = (bit s.hidelegBits (k + 1) && bit s.mach.mie (k + 1)) := by
  rw [show s.readCsr .vsie = s.vsImage s.vsie from rfl, s.bit_vsImage_low _ hk, State.vsie, bit_shiftRight_one, bit_and]

/-- A write of `vsie` updates the delegated bits of `mie`. -/
theorem State.bit_mieOfVsie (s : State) (w : Word) {k : Nat} (hk : k < 31) :
    bit (s.mieOfVsie w) (k + 1) = if bit s.hidelegBits (k + 1) then bit w k else bit s.mach.mie (k + 1) := by
  rw [State.mieOfVsie, bit_merge, bit_shiftLeft_one w (by omega)]

/-- It leaves the bits that cannot be delegated. -/
theorem State.bit_mieOfVsie_other (s : State) (w : Word) {i : Nat} (hi : i ∉ [10, 6, 2]) :
    bit (s.mieOfVsie w) i = bit s.mach.mie i := by
  have hdeleg : bit s.hidelegBits i = false := by rw [State.bit_hidelegBits, decide_eq_false hi, Bool.and_false]
  rw [State.mieOfVsie, bit_merge, hdeleg]
  rfl

/-- A write of `vsip` updates VSSIP where it is delegated, and no other bit of `hvip`. -/
theorem State.bit_hvipOfVsip (s : State) (w : Word) (i : Nat) :
    bit (s.hvipOfVsip w) i = if i = 2 ∧ bit s.hidelegBits 2 = true then bit w 1 else bit s.hyp.hvip i := by
  rw [State.hvipOfVsip, bit_merge, bit_and, bit_bitMask]
  by_cases hi : i = 2
  · subst hi
    rw [bit_shiftLeft_one w (by omega)]
    simp
  · simp [hi]

/-- Settles O54: `vsip` and `vsie` are `hip` and `hie` masked by `hideleg` and moved down one position. -/
theorem vsipAndVsieAliasTheDelegatedBits : Obligations.VsipAndVsieAliasTheDelegatedBits := by
  unfold Obligations.VsipAndVsieAliasTheDelegatedBits
  refine ⟨fun s p hp => ?_, fun s w => ⟨⟨_, rfl, fun p hp => ?_, fun i hi => ?_, rfl, rfl, rfl, rfl⟩,
    ⟨_, rfl, ?_, fun i hi => ?_, rfl, rfl, rfl, rfl⟩⟩⟩
  · obtain ⟨hj, hk, hvs⟩ := vsBitPairs_spec p hp
    rw [s.bit_readCsr_vsip (by omega), s.bit_readCsr_vsie (by omega), show s.readCsr .hie = s.hie from rfl,
      s.bit_hie_vs hvs, hj]
    exact ⟨rfl, rfl⟩
  · obtain ⟨hj, hk, hvs⟩ := vsBitPairs_spec p hp
    refine (State.bit_hie_vs _ hvs).trans ?_
    rw [show s.readCsr .hie = s.hie from rfl, s.bit_hie_vs hvs, hj]
    exact s.bit_mieOfVsie w hk
  · exact State.readCsr_mie_congr rfl (s.bit_mieOfVsie_other w hi)
  · refine (State.bit_hvipBits_two _).trans ((s.bit_hvipOfVsip w 2).trans ?_)
    rw [show s.readCsr .hvip = s.hvipBits from rfl, s.bit_hvipBits_two]
    simp only [true_and]
    rfl
  · refine (State.bit_hvipBits _ i).trans ?_
    rw [show s.readCsr .hvip = s.hvipBits from rfl, s.bit_hvipBits]
    exact congrArg (· && _) ((s.bit_hvipOfVsip w i).trans (if_neg fun h => hi h.1))

end Sys2Proof.Machine

/-! ## State, part 10: a write of `hgatp` (10_state.md R102 to R104, 40_csr_access.md R227) -/

namespace Sys2Proof.Machine

/-- The two low bits of PPN are below the physical address width. -/
theorem Config.two_le_ppnBits_of_valid {c : Config} (hc : c.valid = true) : 2 ≤ c.paBits - 12 := by
  simp only [Config.valid, Bool.and_eq_true, decide_eq_true_eq] at hc
  obtain ⟨⟨-, hlow⟩, -⟩ := hc
  omega

/-- PPN as a write of `hgatp` stores it. -/
def State.hgatpPpnImage (s : State) (w : Word) : Nat :=
  warlField .hgatpPpn (ppnWidth s.cfg.hsxlen) (s.cfg.paBits - 12) (satpPpn s.cfg.hsxlen w) w s.hyp.hgatp / 4 * 4

theorem satpPpn_lt (x : Xlen) (w : Word) : satpPpn x w < 2 ^ ppnWidth x := by cases x <;> exact field_lt _ _ _

theorem satpAsid_lt (x : Xlen) (w : Word) : satpAsid x w < 2 ^ asidWidth x := by cases x <;> exact field_lt _ _ _

/-- Clearing two low bits goes with cutting to two bits or more. -/
theorem div_mul_four_mod_two_pow (a : Nat) {n : Nat} (hn : 2 ≤ n) : a / 4 * 4 % 2 ^ n = a % 2 ^ n / 4 * 4 := by
  obtain ⟨k, rfl⟩ := Nat.exists_eq_add_of_le hn
  rw [Nat.pow_add, Nat.mul_comm (a / 4) 4, Nat.mul_mod_mul_left, Nat.mod_mul_right_div_self, Nat.mul_comm]

/-- The fields of `hgatp` after a write, one by one. -/
theorem State.hgatp_fields_of_write {s t : State} {w : Word} (hc : s.cfg.valid = true) (hcfg : t.cfg = s.cfg)
    (ht : t.hyp.hgatp = s.hgatpImage w) :
    t.hgatpMode = legalize s.cfg.hgatpModes (satpMode s.cfg.hsxlen w) (Config.legalizeHgatpMode w s.hyp.hgatp) ∧
      t.hgatpVmid = (match s.cfg.hsxlen with | .x32 => field w 22 7 | .x64 => field w 44 14) % 2 ^ s.cfg.vmidlen ∧
      t.hgatpPpn = s.hgatpPpnImage w := by
  obtain ⟨hne, hlt⟩ := Config.hgatpModes_of_valid hc
  have hmode := hlt _ (legalize_mem hne (satpMode s.cfg.hsxlen w) (Config.legalizeHgatpMode w s.hyp.hgatp))
  have hwarl : s.hgatpPpnImage w < 2 ^ ppnWidth s.cfg.hsxlen :=
    Nat.lt_of_le_of_lt (Nat.div_mul_le_self _ _) (warlAbove_lt _ _ (satpPpn_lt _ w))
  have hvmid : ∀ n k, n < 2 ^ k → n % 2 ^ s.cfg.vmidlen % 2 ^ k = n % 2 ^ s.cfg.vmidlen := fun n k hn =>
    Nat.mod_eq_of_lt (Nat.lt_of_le_of_lt (Nat.mod_le _ _) hn)
  simp only [State.hgatpMode, State.hgatpVmid, State.hgatpPpn, hcfg, ht, State.hgatpImage]
  simp only [State.hgatpPpnImage] at hwarl ⊢
  cases hx : s.cfg.hsxlen <;> rw [hx] at hmode hwarl <;> simp only [ppnWidth, satpModeCount] at hmode hwarl ⊢
  all_goals
    rw [field_setField_out _ _ _ _ _ _ (by omega) (by omega), field_setField_out _ _ _ _ _ _ (by omega) (by omega),
      field_setField _ _ _ _ (by omega), field_setField_out _ _ _ _ _ _ (by omega) (by omega),
      field_setField _ _ _ _ (by omega), field_setField _ _ _ _ (by omega)]
    exact ⟨Nat.mod_eq_of_lt hmode, hvmid _ _ (field_lt _ _ _), Nat.mod_eq_of_lt hwarl⟩

/-- Settles O55: every field of `hgatp` is the written one, legalized. -/
theorem hgatpWriteIsNeverIgnored : Obligations.HgatpWriteIsNeverIgnored := by
  unfold Obligations.HgatpWriteIsNeverIgnored
  intro s w hc
  obtain ⟨hmode, hvmid, hppn⟩ :=
    State.hgatp_fields_of_write hc (t := s.setHyp { s.hyp with hgatp := s.hgatpImage w }) rfl rfl
  obtain ⟨hne, -⟩ := Config.hgatpModes_of_valid hc
  have hlow := Config.two_le_ppnBits_of_valid hc
  refine ⟨_, rfl, ?_, fun hsupported => ?_, hvmid, ?_, ?_, fun hfits => ?_⟩
  · rw [hmode]; exact legalize_mem hne _ _
  · rw [hmode]; exact legalize_of_mem _ hsupported
  · rw [hppn]; exact Nat.mul_mod_left _ _
  · rw [hppn, State.hgatpPpnImage, div_mul_four_mod_two_pow _ hlow, warlField, warlAbove_mod]
  · rw [hppn, State.hgatpPpnImage, warlField, warlAbove_of_lt _ hfits]

end Sys2Proof.Machine

/-! ## State, part 11: `vsstatus` as read and written (10_state.md R108 to R112) -/

namespace Sys2Proof.Machine

/-- A width field has bits 33:32 alone. -/
theorem bit_widthField (x : Xlen) (code : Nat) {i : Nat} (h32 : i ≠ 32) (h33 : i ≠ 33) :
    bit (widthField x code) i = false := by
  cases x with
  | x32 => exact bit_zero i
  | x64 => exact (bit_setField_out _ _ _ _ _ (by omega) (by omega)).trans (bit_zero i)

theorem topBit_lt (x : Xlen) : topBit x < 64 := by cases x <;> simp [topBit, Xlen.bits]

theorem bit_sdBit (x : Xlen) (b : Bool) (i : Nat) : bit (sdBit x b) i = (b && decide (i = topBit x)) := by
  cases b <;> simp [sdBit, topBit_lt]

theorem bit_sstatusStored (i : Nat) : bit sstatusStored i = decide (i ∈ [1, 5, 8, 13, 14, 15, 16, 18, 19]) :=
  bit_mask_eq (by decide) (by decide) i

theorem bit_sstatusWritable (i : Nat) : bit sstatusWritable i = decide (i ∈ [1, 5, 8, 13, 14, 18, 19]) :=
  bit_mask_eq (by decide) (by decide) i

/-- `vsstatus` as read outside UXL: its stored bits, UBE and SD. -/
theorem State.bit_readVsstatus (s : State) {i : Nat} (h32 : i ≠ 32) (h33 : i ≠ 33) :
    bit s.readVsstatus i =
      (bit s.vs.vsstatus i && decide (i ∈ [1, 5, 8, 13, 14, 15, 16, 18, 19]) || (s.vsUbe && decide (i = 6)) ||
        (statusSd s.vs.vsstatus && decide (i = topBit s.vsxlen))) := by
  have hube : bit (if s.vsUbe then bitMask 6 else 0) i = (s.vsUbe && decide (i = 6)) := by
    cases s.vsUbe
    · exact bit_zero i
    · simp
  rw [State.readVsstatus, bit_or, bit_or, bit_or, bit_and, bit_sstatusStored, hube, bit_widthField _ _ h32 h33, bit_sdBit,
    Bool.or_false]

/-- `vsstatus` as a write leaves it outside UXL. -/
theorem State.bit_vsstatusImage (s : State) (w : Word) {i : Nat} (h32 : i ≠ 32) (h33 : i ≠ 33) :
    bit (s.vsstatusImage w) i =
      if i ∈ [1, 5, 8, 13, 14, 18, 19] ∨ (i = 6 ∧ s.cfg.ubeCopy = false) then bit w i else bit s.vs.vsstatus i := by
  have hmerge : bit (merge sstatusWritable w s.vs.vsstatus) i =
      if i ∈ [1, 5, 8, 13, 14, 18, 19] then bit w i else bit s.vs.vsstatus i := by
    rw [bit_merge, bit_sstatusWritable]
    simp only [decide_eq_true_eq]
  unfold State.vsstatusImage
  dsimp only
  rw [bit_setField_out _ _ _ _ _ (by omega) (by omega)]
  cases s.cfg.ubeCopy with
  | true => simpa using hmerge
  | false =>
    rw [if_neg (by decide), bit_setBit _ _ _ _ (by omega), hmerge]
    by_cases h6 : i = 6
    · subst h6; simp
    · simp [h6]

/-- An admissible implementation has a UXL to choose, and each it allows fits the field. -/
theorem Config.uxlLegal_of_valid {c : Config} (hc : c.valid = true) : c.uxlLegal ≠ [] ∧ ∀ n ∈ c.uxlLegal, n < 2 ^ 2 := by
  obtain ⟨-, hcodes, -⟩ := Config.legalSets_of_valid hc
  simp only [Config.valid, Bool.and_eq_true] at hc
  obtain ⟨⟨⟨⟨⟨⟨⟨-, hne⟩, -⟩, -⟩, -⟩, -⟩, -⟩, -⟩ := hc
  refine ⟨by simpa using hne, fun n hn => ?_⟩
  rcases hcodes n hn with rfl | rfl <;> decide

/-- UXL is a copy of VSXL, or the field of `vsstatus`. -/
theorem State.vsUxl_of_copy {s : State} (h : s.cfg.uxlCopy = true) : s.vsUxl = s.vsxl := if_pos h

theorem State.vsUxl_of_own {s : State} (h : s.cfg.uxlCopy = false) : s.vsUxl = field s.vs.vsstatus 32 2 :=
  if_neg (by rw [h]; decide)

/-- UXL of its own after a write at VSXLEN = 64 is legalized. -/
theorem State.vsUxl_vsstatusImage {s : State} (hc : s.cfg.valid = true) (hx : s.vsxlen = .x64)
    (hcopy : s.cfg.uxlCopy = false) (w : Word) :
    field (s.vsstatusImage w) 32 2 =
      legalize s.cfg.uxlLegal (field w 32 2) (Config.legalizeUxl w s.vs.vsstatus) := by
  obtain ⟨hne, hlt⟩ := Config.uxlLegal_of_valid hc
  have hlegal := hlt _ (legalize_mem hne (field w 32 2) (Config.legalizeUxl w s.vs.vsstatus))
  unfold State.vsstatusImage
  dsimp only
  rw [field_setField _ _ _ _ (by omega), hx, uxlImage, hcopy, if_neg (by decide), Nat.mod_eq_of_lt hlegal]

/-- The low half of `vsstatus` is at every width where its bits are. -/
theorem State.bit_readCsr_vsstatus (s : State) {i : Nat} (hi : i < 31) :
    bit (s.readCsr .vsstatus) i =
      (bit s.vs.vsstatus i && decide (i ∈ [1, 5, 8, 13, 14, 15, 16, 18, 19]) || (s.vsUbe && decide (i = 6))) := by
  have htop : i ≠ topBit s.vsxlen := by cases s.vsxlen <;> simp only [topBit, Xlen.bits] <;> omega
  rw [show s.readCsr .vsstatus = s.vsImage s.readVsstatus from rfl, s.bit_vsImage_low _ (by omega),
    s.bit_readVsstatus (by omega) (by omega), decide_eq_false htop, Bool.and_false, Bool.or_false]

/-- What a write of `vsstatus` leaves to be read. -/
theorem State.vsstatus_write_read (s : State) (w : Word) (hc : s.cfg.valid = true) :
    ∃ t, s.writeCsr .vsstatus w = .ok t ∧
      (∀ i ∈ [1, 5, 8, 13, 14, 18, 19], bit (t.readCsr .vsstatus) i = bit w i) ∧
      (∀ i ∈ [15, 16], bit (t.readCsr .vsstatus) i = bit (s.readCsr .vsstatus) i) ∧
      bit (t.readCsr .vsstatus) 6 = (if s.cfg.ubeCopy then s.vsbe else bit w 6) ∧
      (s.vsxlen = .x64 → (s.cfg.uxlCopy = true → t.vsUxl = s.vsUxl) ∧
        (s.cfg.uxlCopy = false → t.vsUxl ∈ s.cfg.uxlLegal ∧ (field w 32 2 ∈ s.cfg.uxlLegal → t.vsUxl = field w 32 2))) ∧
      (∀ i, i < 31 → i ∉ [1, 5, 6, 8, 13, 14, 15, 16, 18, 19] → bit (t.readCsr .vsstatus) i = false) := by
  have hwritable : ∀ i ∈ [1, 5, 8, 13, 14, 18, 19],
      i < 31 ∧ i ≠ 6 ∧ i ∈ [1, 5, 8, 13, 14, 15, 16, 18, 19] := by decide
  have hextension : ∀ i ∈ [15, 16], i < 31 ∧ i ≠ 6 ∧ i ∉ [1, 5, 8, 13, 14, 18, 19] := by decide
  refine ⟨_, rfl, fun i hi => ?_, fun i hi => ?_, ?_, fun hx => ⟨fun hcopy => ?_, fun hcopy => ?_⟩, fun i hi hnot => ?_⟩
  · obtain ⟨hlow, h6, hstored⟩ := hwritable i hi
    refine (State.bit_readCsr_vsstatus _ hlow).trans ?_
    rw [decide_eq_false h6, decide_eq_true hstored, Bool.and_true, Bool.and_false, Bool.or_false]
    exact (s.bit_vsstatusImage w (by omega) (by omega)).trans (if_pos (.inl hi))
  · obtain ⟨hlow, h6, hkept⟩ := hextension i hi
    refine (State.bit_readCsr_vsstatus _ hlow).trans ?_
    rw [s.bit_readCsr_vsstatus hlow, decide_eq_false h6, Bool.and_false, Bool.and_false]
    refine congrArg (fun b => b && _ || false) ((s.bit_vsstatusImage w (by omega) (by omega)).trans (if_neg ?_))
    exact fun h => h.elim hkept fun h => h6 h.1
  · refine (State.bit_readCsr_vsstatus _ (by omega)).trans ?_
    have hube : (s.setVs { s.vs with vsstatus := s.vsstatusImage w }).vsUbe = if s.cfg.ubeCopy then s.vsbe else bit w 6 := by
      show (if s.cfg.ubeCopy then s.vsbe else bit (s.vsstatusImage w) 6) = _
      rw [s.bit_vsstatusImage w (by omega) (by omega)]
      cases s.cfg.ubeCopy <;> simp
    rw [hube]
    simp
  · exact (if_pos hcopy).trans (State.vsUxl_of_copy hcopy).symm
  · rw [show (s.setVs { s.vs with vsstatus := s.vsstatusImage w }).vsUxl = _ from
      (State.vsUxl_of_own (s := s.setVs { s.vs with vsstatus := s.vsstatusImage w }) hcopy).trans (State.vsUxl_vsstatusImage hc hx hcopy w)]
    exact ⟨legalize_mem (Config.uxlLegal_of_valid hc).1 _ _, legalize_of_mem _⟩
  · have h6 : i ≠ 6 := by rintro rfl; exact hnot (by decide)
    have hstored : i ∉ [1, 5, 8, 13, 14, 15, 16, 18, 19] := by
      simp only [List.mem_cons, List.not_mem_nil, or_false, not_or] at hnot ⊢
      omega
    rw [State.bit_readCsr_vsstatus _ hi, decide_eq_false h6, decide_eq_false hstored, Bool.and_false, Bool.and_false]
    rfl

end Sys2Proof.Machine

/-! ## State, part 12: the other VS CSRs as written (10_state.md R121 to R128, 40_csr_access.md R227) -/

namespace Sys2Proof.Machine

/-- The fields of `vsatp` legalized, one by one. -/
theorem State.vsatpLegal_fields {s : State} (hc : s.cfg.valid = true) (w : Word) :
    satpMode s.vsxlen (s.vsatpLegal w) =
        legalize (vsatpModesAt s.cfg s.vsxlen) (satpMode s.vsxlen w) (Config.legalizeVsatpMode w s.vs.vsatp) ∧
      satpAsid s.vsxlen (s.vsatpLegal w) =
        warlField .vsatpAsid (asidWidth s.vsxlen) s.cfg.asidlen (satpAsid s.vsxlen w) w s.vs.vsatp ∧
      satpPpn s.vsxlen (s.vsatpLegal w) =
        warlField .vsatpPpn (ppnWidth s.vsxlen) s.cfg.vsatpPpnBits (satpPpn s.vsxlen w) w s.vs.vsatp :=
  satpImage_fields (vsatpModesAt_lt (legalize_mem (Config.vsatpModesAt_ne_nil hc _) _ _))
    (warlAbove_lt _ _ (satpAsid_lt _ w)) (warlAbove_lt _ _ (satpPpn_lt _ w))

/-- With an unsupported MODE at V = 1 a write of `vsatp` has no effect. -/
theorem State.vsatpImage_ignored {s : State} {w : Word} (hm : satpMode s.vsxlen w ∉ vsatpModesAt s.cfg s.vsxlen)
    (hv : s.v = true) : s.vsatpImage w = s.vs.vsatp := by
  simp [State.vsatpImage, hm, hv]

theorem State.vsatpImage_stored {s : State} {w : Word}
    (h : satpMode s.vsxlen w ∈ vsatpModesAt s.cfg s.vsxlen ∨ s.v = false) : s.vsatpImage w = s.vsatpLegal w := by
  rcases h with h | h <;> simp [State.vsatpImage, h]

/-- The bits of an exception pc that read zero. -/
theorem bit_epcLow (c : Config) (i : Nat) : bit (epcLow c) i = (i == 0 || (i == 1 && c.ialign == .i32)) := by
  unfold epcLow
  cases c.ialign with
  | i16 =>
    rw [bit_mask_eq (l := [0]) (by decide) (by decide), Bool.eq_iff_iff]
    simp
  | i32 =>
    rw [bit_mask_eq (l := [0, 1]) (by decide) (by decide), Bool.eq_iff_iff]
    simp

/-- A trap vector register stores all bits of its width but bit 1. -/
theorem bit_tvecImage {x : Xlen} (w : Word) {i : Nat} (hi : i < x.bits) : bit (tvecImage x w) i = (bit w i && i != 1) := by
  have hmask : bit 0x2 i = decide (i ∈ [1]) := bit_mask_eq (by decide) (by decide) i
  rw [tvecImage, bit_fit, decide_eq_true hi, Bool.and_true, bit_merge, hmask]
  by_cases h1 : i = 1 <;> simp [h1]

/-- An exception pc register stores the aligned part of an address. -/
theorem bit_epcImage (c : Config) {x : Xlen} (w : Word) {i : Nat} (hi : i < x.bits) :
    bit (epcImage c x w) i = (bit w i && i != 0 && (i != 1 || c.ialign == .i16)) := by
  rw [epcImage, bit_fit, decide_eq_true hi, Bool.and_true, bit_merge, bit_epcLow]
  by_cases h0 : i = 0
  · subst h0; simp
  · have hb0 : (i == 0) = false := by simpa using h0
    by_cases h1 : i = 1
    · subst h1; cases c.ialign <;> simp
    · have hb1 : (i == 1) = false := by simpa using h1
      simp [bne, hb0, hb1]

theorem bit_fit_of_lt {x : Xlen} (w : Word) {i : Nat} (hi : i < x.bits) : bit (fit x w) i = bit w i := by
  rw [bit_fit, decide_eq_true hi, Bool.and_true]

/-- Settles O57: each VS CSR stores its fields of the written value, `vsatp` and `vscause` only legal ones. -/
theorem vsatpWriteDependsOnVWhenTheModeIsUnsupported : Obligations.VsatpWriteDependsOnVWhenTheModeIsUnsupported := by
  unfold Obligations.VsatpWriteDependsOnVWhenTheModeIsUnsupported
  intro s w hc
  refine ⟨fun hm hv => ?_, fun h => ⟨_, rfl, ?_⟩, s.vsstatus_write_read w hc, ⟨_, rfl, fun i hi => ?_⟩,
    ⟨_, rfl, fun i hi => ?_⟩, ⟨_, rfl, fun i hi => ?_⟩, fun hlegal => ?_, fun hillegal => ?_, ⟨_, rfl, fun i hi => ?_⟩⟩
  · show Except.ok (s.setVs { s.vs with vsatp := s.vsatpImage w }) = _
    rw [State.vsatpImage_ignored hm hv]
    rfl
  · rw [show (s.setVs { s.vs with vsatp := s.vsatpImage w }).vs.vsatp = _ from State.vsatpImage_stored h]
    obtain ⟨hmode, hasid, hppn⟩ := State.vsatpLegal_fields hc w
    rw [hmode, hasid, hppn]
    refine ⟨legalize_mem (Config.vsatpModesAt_ne_nil hc _) _ _, legalize_of_mem _, warlAbove_mod _ _ _ _ _,
      warlAbove_of_lt _, warlAbove_mod _ _ _ _ _, warlAbove_of_lt _, ?_⟩
    rw [← State.vsatpImage_stored h]
    rfl
  · exact (State.bit_vsImage _ _ hi).trans (bit_tvecImage w hi)
  · exact (State.bit_vsImage _ _ hi).trans (bit_fit_of_lt w hi)
  · exact (State.bit_vsImage _ _ hi).trans (bit_epcImage _ w hi)
  · exact ⟨_, if_pos hlegal, fun i hi => (State.bit_vsImage _ _ hi).trans (bit_fit_of_lt w hi)⟩
  · exact if_neg (by rw [hillegal]; decide)
  · exact (State.bit_vsImage _ _ hi).trans (bit_fit_of_lt w hi)

end Sys2Proof.Machine

/-! ## State, part 13: floating-point state (10_state.md R111, 42_privileged.md R300 to R302) -/

namespace Sys2Proof.Machine

/-- A step at a rejected word does what `State.execRejected` says. -/
theorem step_of_rejected {s s' : State} {w : InstrWord} {r : Reject} (hi : s.interrupt = none)
    (hf : s.fetch = .word w s') (hd : decode w = .error r) : step s = withPlatform (s'.execRejected r w) := by
  rw [step, hartStep, hi]
  dsimp only
  rw [hf]
  dsimp only
  rw [hd]

theorem State.floatOff_of {s : State} (h : s.fs = 0 ∨ (s.v = true ∧ s.vsFs = 0)) : s.floatOff = true := by
  simpa [State.floatOff] using h

/-- Settles O58: SD by the bits of `vsstatus` as read, the gate by the rejected words, and `floatDirty` by its fields. -/
theorem floatingPointStateIsGatedAndTracked : Obligations.FloatingPointStateIsGatedAndTracked := by
  unfold Obligations.FloatingPointStateIsGatedAndTracked
  refine ⟨fun s => ?_, fun s s' w hi hf hw hoff => ?_, fun s => ⟨?_, ?_⟩⟩
  · have hstored : topBit s.vsxlen ∉ [1, 5, 8, 13, 14, 15, 16, 18, 19] ∧ topBit s.vsxlen ≠ 6 ∧
        topBit s.vsxlen ≠ 32 ∧ topBit s.vsxlen ≠ 33 := by
      cases s.vsxlen <;> decide
    obtain ⟨hstored, h6, h32, h33⟩ := hstored
    refine (s.bit_readVsstatus h32 h33).trans ?_
    rw [decide_eq_false hstored, decide_eq_false h6]
    simp [statusSd, State.vsFs]
  · have hgate := State.floatOff_of hoff
    rcases hw with hd | ⟨hd, hparcel⟩ <;> rw [step_of_rejected hi hf hd]
    · rw [State.execRejected, if_pos hgate]
      rfl
    · rw [State.execRejected, if_pos (.inr (.inr ⟨hparcel, hgate⟩))]
      rfl
  · rw [State.fs, State.floatDirty_mach]
    exact field_setField _ _ _ _ (by omega)
  · rw [State.vsFs, State.floatDirty_vs]
    cases s.v
    · rfl
    · exact field_setField _ _ _ _ (by omega)

end Sys2Proof.Machine

/-! ## State, part 14: `hvip` through the CSR instructions (10_state.md R60, 40_csr_access.md R221 to R226) -/

namespace Sys2Proof.Machine

/-- In HS- and M-mode the address 0x645 reaches `hvip`. -/
theorem State.resolveCsr_hvip {s : State} (hv : s.v = false) (hp : s.priv ≠ .u) (w : Bool) :
    s.resolveCsr 0x645 w = .ok .hvip := by
  have hat : csrAt 0x645 = some .hvip := by decide
  have hwritable : (w && (0x645 : CsrAddr).extractLsb' 10 2 == 3) = false := by cases w <;> decide
  have hopen : ¬ (s.priv = .s ∧ s.mstatusTvm = true ∧ tvmBars .hvip = true) := fun h => Bool.noConfusion h.2.2
  rw [State.resolveCsr, hat]
  dsimp only
  rw [hwritable]
  simp [State.hasCsr, Csr.cls, hv, hp, hopen]

/-- A CSR instruction that wants no write computes the old value. -/
theorem State.csrNewValue_of_no_write {s : State} {i : Instr} {a : CsrAddr} (h : csrOperand i = some (a, false)) (old : Word) :
    s.csrNewValue old i = old := by
  have hor : old ||| 0#64 = old := BitVec.or_zero
  have hand : old &&& ~~~0#64 = old := by rw [BitVec.not_zero, BitVec.and_allOnes]
  cases i <;> simp [csrOperand] at h
  all_goals obtain ⟨-, rfl⟩ := h
  case csrrs | csrrsi => exact hor
  case csrrc | csrrci => exact hand

/-- `s` with another `hvip`. -/
def State.withHvip (s : State) (v : Word) : State := s.setHyp { s.hyp with hvip := v }

/-- The width of the mode does not depend on `hvip`. -/
theorem State.withHvip_xlen (s : State) (v : Word) : (s.withHvip v).xlen = s.xlen := rfl

theorem State.withHvip_self (s : State) : s.withHvip s.hyp.hvip = s := rfl

/-- A CSR instruction on `hvip` completes: `hvip` keeps the VS-level bits of its new value, and rd gets the old one. -/
theorem State.exec_hvip {s : State} (hv : s.v = false) (hp : s.priv ≠ .u) {i : Instr} {w : Bool}
    (hi : csrOperand i = some (0x645, w)) :
    ∃ v, v &&& vsMask = s.csrNewValue (s.readCsr .hvip) i &&& vsMask ∧
      exec i s = .next (((s.withHvip v).setX (csrDest i) (fit s.xlen (s.readCsr .hvip))).advance) := by
  have hexec := State.csrAnswers_of_resolveCsr (s.resolveCsr_hvip hv hp w) i hi
  cases w with
  | true =>
    refine ⟨s.csrNewValue (s.readCsr .hvip) i &&& vsMask, ?_, hexec⟩
    rw [BitVec.and_assoc, BitVec.and_self]
  | false =>
    refine ⟨s.hyp.hvip, ?_, ?_⟩
    · rw [State.csrNewValue_of_no_write hi]
      show _ = s.hyp.hvip &&& vsMask &&& vsMask
      rw [BitVec.and_assoc, BitVec.and_self]
    · rw [s.withHvip_self]
      exact hexec

/-- What such a completion leaves. -/
theorem State.withHvip_completed (s : State) (v old : Word) (rd : Reg) :
    let t := ((s.withHvip v).setX rd (fit s.xlen old)).advance
    t.readCsr .hvip = v &&& vsMask ∧ t.x rd = (if rd = 0 then 0 else fit s.xlen old) ∧ (∀ r : Reg, r ≠ rd → t.x r = s.x r) ∧
      t.pc = fit s.xlen (s.pc + 4) ∧ SameMemory s t ∧ SameControl { s with hyp := { s.hyp with hvip := t.hyp.hvip } } t := by
  refine ⟨rfl, ?_, fun r hr => ?_, rfl, ⟨rfl, rfl, rfl⟩, ⟨rfl, rfl, rfl, rfl, rfl, rfl, rfl, rfl, rfl, rfl⟩⟩
  · show ((s.withHvip v).setX rd (fit s.xlen old)).x rd = _
    by_cases h0 : rd = 0
    · subst h0; rfl
    · rw [State.x_setX_self _ _ _ h0, if_neg h0, s.withHvip_xlen, fit_fit]
  · show ((s.withHvip v).setX rd (fit s.xlen old)).x r = _
    rw [State.x_setX_ne _ _ _ _ hr]
    rfl

/-- Settles O49: each of the six reaches `hvip`, and nothing it leaves depends on which of them it was. -/
theorem hvipThroughTheSixCsrInstructions : Obligations.HvipThroughTheSixCsrInstructions := by
  unfold Obligations.HvipThroughTheSixCsrInstructions
  intro s rd rs1 m hv hp p hmem
  have hform : ∃ w, csrOperand p.1 = some (0x645, w) ∧ csrDest p.1 = rd ∧ s.csrNewValue (s.readCsr .hvip) p.1 = p.2 := by
    simp only [List.mem_cons, List.not_mem_nil, or_false] at hmem
    rcases hmem with rfl | rfl | rfl | rfl | rfl | rfl
    all_goals exact ⟨_, rfl, rfl, rfl⟩
  obtain ⟨w, hi, rfl, hnew⟩ := hform
  obtain ⟨v, hmask, hexec⟩ := State.exec_hvip hv hp hi
  rw [hnew] at hmask
  obtain ⟨hread, hrest⟩ := s.withHvip_completed v (s.readCsr .hvip) (csrDest p.1)
  exact ⟨_, hexec, hread.trans hmask, hrest⟩

end Sys2Proof.Machine

/-! ## State, part 15: faults and leaves of a walk (20_memory.md R157 to R164, 41_vm_load_store.md R253, R270) -/

namespace Sys2Proof.Machine

/-! ### Which faults an answer can have -/

theorem Answer.andThen_fault {α β : Type} {a : Answer α} {k : α → State → Answer β} {f : AccFault} {t : State}
    (h : a.andThen k = .fault f t) : a = .fault f t ∨ ∃ x u, a = .ok x u ∧ k x u = .fault f t := by
  cases a with
  | ok x u => exact .inr ⟨x, u, rfl, h⟩
  | fault g u => cases h; exact .inl rfl

theorem Answer.andThen_ok {α β : Type} {a : Answer α} {k : α → State → Answer β} {y : β} {t : State}
    (h : a.andThen k = .ok y t) : ∃ x u, a = .ok x u ∧ k x u = .ok y t := by
  cases a with
  | ok x u => exact ⟨x, u, rfl, h⟩
  | fault g u => cases h

/-- An address that is no memory is an access fault. -/
theorem State.physical_fault {s t : State} {a n : Nat} {f : AccFault} (h : s.physical a n = .fault f t) : f = .access := by
  unfold State.physical at h
  dsimp only at h
  split at h <;> cases h
  rfl

/-- A cached copy makes no fault: one comes from the read. -/
theorem State.cachedPte_fault {s t : State} {key : TlbKey} {table : Nat} {serves : Word → Bool}
    {read : State → Answer Word} {f : AccFault} (h : s.cachedPte key table serves read = .fault f t) :
    read s = .fault f t := by
  have hrefill : (read s).andThen (fun p s' => .ok p (s'.setTlb (tlbInsert s'.tlb key p table))) = .fault f t →
      read s = .fault f t := fun hr => by
    rcases Answer.andThen_fault hr with hf | ⟨_, _, -, hk⟩
    · exact hf
    · cases hk
  unfold State.cachedPte at h
  split at h
  · dsimp only at h
    split at h
    · cases h
    · exact hrefill h
  · exact hrefill h

/-- A fault while an entry is found is one of locating its bytes. -/
theorem WalkCtx.entry_fault {c : WalkCtx} {level base : Nat} {s t : State} {f : AccFault}
    (h : c.entry level base s = .fault f t) : c.locate false (c.entryAddr level base) s = .fault f t := by
  rcases Answer.andThen_fault (State.cachedPte_fault h) with hf | ⟨_, _, -, hk⟩
  · exact hf
  · cases hk

theorem WalkCtx.writePte_fault {c : WalkCtx} {level addr : Nat} {p : Word} {s t : State} {f : AccFault}
    (h : c.writePte level addr p s = .fault f t) : c.locate true addr s = .fault f t := by
  rcases Answer.andThen_fault h with hf | ⟨_, _, -, hk⟩
  · exact hf
  · cases hk

/-- A pointer names a table of a page. -/
theorem Scheme.usePte_table {c : Scheme} {level a b : Nat} {p : Word} (h : c.usePte level p a = .table b) :
    b % 4096 = 0 := by
  unfold Scheme.usePte at h
  dsimp only at h
  repeat' split at h
  all_goals cases h
  exact Nat.mul_mod_left _ _

/-- A leaf keeps the offset in the page. -/
theorem Scheme.usePte_leaf {c : Scheme} {level a b : Nat} {p : Word} (h : c.usePte level p a = .leaf b) :
    b % 4096 = a % 4096 := by
  unfold Scheme.usePte at h
  dsimp only at h
  repeat' split at h
  all_goals cases h
  omega

/-- A walk faults with its own failure, or where it locates an entry of a table. -/
theorem WalkCtx.walk_fault {c : WalkCtx} {levels : List Nat} {base : Nat} {s t : State} {f : AccFault}
    (h : c.walk levels base s = .fault f t) (hbase : base % 4096 = 0) :
    f = c.failure ∨ ∃ write level table u, table % 4096 = 0 ∧ c.locate write (c.entryAddr level table) u = .fault f t := by
  induction levels generalizing base s with
  | nil => cases h; exact .inl rfl
  | cons level rest ih =>
    rw [WalkCtx.walk] at h
    rcases Answer.andThen_fault h with he | ⟨p, u, -, hk⟩
    · exact .inr ⟨false, level, base, s, hbase, WalkCtx.entry_fault he⟩
    · split at hk
      · cases hk; exact .inl rfl
      · next htable => exact ih hk (Scheme.usePte_table htable)
      · split at hk
        · cases hk; exact .inl rfl
        · split at hk
          · cases hk
          · split at hk
            · cases hk; exact .inl rfl
            · rcases Answer.andThen_fault hk with hw | ⟨_, _, -, hk'⟩
              · exact .inr ⟨true, level, base, u, hbase, WalkCtx.writePte_fault hw⟩
              · cases hk'

/-- A walk keeps the offset in the page. -/
theorem WalkCtx.walk_ok {c : WalkCtx} {levels : List Nat} {base a : Nat} {s t : State}
    (h : c.walk levels base s = .ok a t) : a % 4096 = c.input % 4096 := by
  induction levels generalizing base s with
  | nil => cases h
  | cons level rest ih =>
    rw [WalkCtx.walk] at h
    obtain ⟨p, u, -, hk⟩ := Answer.andThen_ok h
    split at hk
    · cases hk
    · exact ih hk
    · next hleaf =>
      split at hk
      · cases hk
      · split at hk
        · cases hk; exact Scheme.usePte_leaf hleaf
        · split at hk
          · cases hk
          · obtain ⟨_, _, -, hk'⟩ := Answer.andThen_ok hk
            cases hk'
            exact Scheme.usePte_leaf hleaf

/-! ### The two stages -/

/-- Bare is no scheme. -/
theorem schemeOf_bare (x : Xlen) (wide : Bool) : schemeOf x 0 wide = none := by cases x <;> rfl

theorem schemeOf_pteBytes {x : Xlen} {mode : Nat} {wide : Bool} {sch : Scheme} (h : schemeOf x mode wide = some sch) :
    sch.pteBytes = 4 ∨ sch.pteBytes = 8 := by
  unfold schemeOf at h
  repeat' split at h
  all_goals cases h
  all_goals simp

/-- An entry of a table stands at a multiple of 4. -/
theorem WalkCtx.entryAddr_mod_four {c : WalkCtx} {level table : Nat} (ht : table % 4096 = 0)
    (hb : c.scheme.pteBytes = 4 ∨ c.scheme.pteBytes = 8) : c.entryAddr level table % 4 = 0 := by
  unfold WalkCtx.entryAddr
  rcases hb with hb | hb <;> rw [hb] <;> omega

/-- Under Bare the G-stage is the identity. -/
theorem State.gStage_bare {s : State} (h : s.hgatpMode = 0) (gpa : Nat) (k : AccKind) (mxr implicit : Bool) (n : Nat) :
    s.gStage gpa k mxr implicit n = .ok gpa s := by
  rw [State.gStage, h, schemeOf_bare]

/-- The G-stage's faults are access faults and guest-page faults that report the address given. -/
theorem State.gStage_fault {s t : State} {gpa : Nat} {k : AccKind} {mxr implicit : Bool} {n : Nat} {f : AccFault}
    (h : s.gStage gpa k mxr implicit n = .fault f t) :
    f = .access ∨ f = .guestPage ⟨gpa, implicit, n, k == .store⟩ := by
  unfold State.gStage at h
  split at h
  · cases h
  · dsimp only at h
    split at h
    · cases h; exact .inr rfl
    · rcases WalkCtx.walk_fault h (Nat.mul_mod_left _ _) with hf | ⟨_, _, _, _, -, hl⟩
      · exact .inr hf
      · exact .inl (State.physical_fault hl)

/-- A guest-page fault of the VS-stage is one of its implicit accesses, to an entry of a table. -/
theorem State.vsStage_guestPage {s t : State} {gva : Nat} {acc : Access} {g : GuestFault}
    (h : s.vsStage gva acc = .fault (.guestPage g) t) :
    g.implicit = true ∧ g.gpa % 4 = 0 ∧ (g.pteBytes = 4 ∨ g.pteBytes = 8) := by
  unfold State.vsStage at h
  split at h
  · cases h
  · next sch hsch =>
    have hbytes := schemeOf_pteBytes hsch
    split at h
    · cases h
    · rcases WalkCtx.walk_fault h (Nat.mul_mod_left _ _) with hf | ⟨write, level, table, u, ht, hl⟩
      · cases hf
      · rcases Answer.andThen_fault hl with hg | ⟨_, _, -, hp⟩
        · rcases State.gStage_fault hg with hf | hf <;> cases hf
          exact ⟨rfl, WalkCtx.entryAddr_mod_four ht hbytes, hbytes⟩
        · cases State.physical_fault hp

/-- The VS-stage keeps the offset in the page. -/
theorem State.vsStage_ok {s t : State} {gva gpa : Nat} {acc : Access} (h : s.vsStage gva acc = .ok gpa t) :
    gpa % 4096 = gva % 4096 := by
  unfold State.vsStage at h
  split at h
  · cases h; rfl
  · split at h
    · cases h
    · exact WalkCtx.walk_ok h

/-- A two-stage translation. -/
theorem State.translate_two {s : State} {acc : Access} (h : acc.effV = true) (va : Word) :
    s.translate va acc =
      (s.vsStage (fit s.vsxlen va).toNat acc).andThen fun gpa s' => s'.gStage gpa acc.kind s'.mxr false 0 :=
  if_pos h

theorem fit_mod_four (x : Xlen) (w : Word) : (fit x w).toNat % 4 = w.toNat % 4 := by
  cases x with
  | x32 =>
    have hmask : (fit .x32 w).toNat = w.toNat % 2 ^ 32 := by
      rw [fit, BitVec.toNat_and]
      exact Nat.and_two_pow_sub_one_eq_mod _ 32
    omega
  | x64 => rfl

/-! ### Permissions at a leaf -/

theorem permits_iff (k : AccKind) (mxr : Bool) (p : Word) :
    permits k mxr p = true ↔
      (k = .load → pteR p = true ∨ mxr = true ∧ pteX p = true) ∧ (k = .loadX ∨ k = .fetch → pteX p = true) ∧
        (k = .store → pteW p = true) := by
  cases k <;> simp [permits]

theorem privAllows_iff (k : AccKind) (priv : Priv) (sum : Bool) (p : Word) :
    privAllows k priv sum p = true ↔
      (priv = .u ∧ pteU p = true ∨ priv ≠ .u ∧ (pteU p = false ∨ sum = true ∧ k ≠ .fetch)) := by
  cases priv <;> simp [privAllows]

/-- At a leaf a walk goes on where the permissions allow it and no bit needs an update, and fails where they do not. -/
theorem WalkCtx.walk_at_leaf {c : WalkCtx} {level base a : Nat} {rest : List Nat} {u s : State} {p : Word}
    (he : c.entry level base u = .ok p s) (hl : c.scheme.usePte level p c.input = .leaf a) :
    (c.allows p = true → needsAD c.kind p = false → c.walk (level :: rest) base u = .ok a s) ∧
      (¬ c.allows p = true → c.walk (level :: rest) base u = .fault c.failure s) := by
  rw [WalkCtx.walk, he]
  simp only [Answer.andThen, hl]
  refine ⟨fun ha hn => ?_, fun ha => ?_⟩
  · simp [ha, hn]
  · simp [ha]

/-- The VS-stage asks the mode of the access, SUM and MXR of `vsstatus`, and MXR of the HS-level `sstatus`. -/
theorem State.vsWalk_allows_iff (s : State) (sch : Scheme) (gva : Nat) (acc : Access) (p : Word) :
    (s.vsWalk sch gva acc).allows p = true ↔
      (acc.effPriv = .u ∧ pteU p = true ∨
          acc.effPriv ≠ .u ∧ (pteU p = false ∨ s.vsSum = true ∧ acc.kind ≠ .fetch)) ∧
        (acc.kind = .load → pteR p = true ∨ (s.vsMxr = true ∨ s.mxr = true) ∧ pteX p = true) ∧
        (acc.kind = .loadX ∨ acc.kind = .fetch → pteX p = true) ∧ (acc.kind = .store → pteW p = true) := by
  show (privAllows acc.kind acc.effPriv s.vsSum p && permits acc.kind (s.vsMxr || s.mxr) p) = true ↔ _
  rw [Bool.and_eq_true, privAllows_iff, permits_iff, Bool.or_eq_true]

/-- The G-stage checks every access as a user-level one. -/
theorem State.gWalk_allows_iff (s : State) (sch : Scheme) (gpa : Nat) (k : AccKind) (mxr im : Bool) (n : Nat) (p : Word) :
    (s.gWalk sch gpa k mxr im n).allows p = true ↔
      pteU p = true ∧ (k = .load → pteR p = true ∨ mxr = true ∧ pteX p = true) ∧
        (k = .loadX ∨ k = .fetch → pteX p = true) ∧ (k = .store → pteW p = true) := by
  show (pteU p && permits k mxr p) = true ↔ _
  rw [Bool.and_eq_true, permits_iff]

/-- Settles O40: a fault of either stage is found where the walk found it, and a leaf is decided by its permissions. -/
theorem guestPageFaultsReportTheAddressThatFailed : Obligations.GuestPageFaultsReportTheAddressThatFailed := by
  unfold Obligations.GuestPageFaultsReportTheAddressThatFailed
  refine ⟨fun s gpa k mxr implicit n => ⟨fun h => State.gStage_bare h gpa k mxr implicit n,
    fun f t h => State.gStage_fault h⟩, fun s t va acc g hv h => ?_, ?_, ?_, fun s t va acc spa hv h => ?_, ?_⟩
  · rw [State.translate_two hv] at h
    rcases Answer.andThen_fault h with hvs | ⟨gpa, u, hvs, hg⟩
    · obtain ⟨himplicit, haddr, hbytes⟩ := State.vsStage_guestPage hvs
      exact ⟨fun _ => ⟨haddr, hbytes⟩, fun hf => absurd himplicit (by rw [hf]; decide)⟩
    · have hoffset := State.vsStage_ok hvs
      have hlow := fit_mod_four s.vsxlen va
      rcases State.gStage_fault hg with hf | hf <;> cases hf
      exact ⟨fun hf => Bool.noConfusion hf, fun _ => show gpa % 4 = _ by omega⟩
  · intro s s' u sch gva level base a rest acc p he hl allowed
    obtain ⟨hgo, hfail⟩ := WalkCtx.walk_at_leaf (rest := rest) he hl
    rw [s.vsWalk_allows_iff] at hgo hfail
    exact ⟨hgo, hfail⟩
  · intro s s' u sch gpa level base a n rest k mxr im p he hl allowed
    obtain ⟨hgo, hfail⟩ := WalkCtx.walk_at_leaf (rest := rest) he hl
    rw [s.gWalk_allows_iff] at hgo hfail
    exact ⟨hgo, hfail⟩
  · rw [State.translate_two hv] at h
    obtain ⟨gpa, u, hvs, hg⟩ := Answer.andThen_ok h
    have hwalked : Walked s u := by
      have hstate := s.vsStage_walked (fit s.vsxlen va).toNat acc
      rwa [hvs] at hstate
    have hmxr : u.mxr = s.mxr := by rw [State.mxr, hwalked.mach]; rfl
    exact ⟨gpa, u, hvs, hmxr ▸ hg⟩
  · intro f
    cases f <;> rfl

end Sys2Proof.Machine

/-! ## Memory, part 1: memory stays canonical (20_memory.md R140) -/

namespace Sys2Proof.Machine

/-- Where memory stays, so does its canonical form. -/
theorem State.memCanonical_of_same {s t : State} (hm : t.mem = s.mem) (hs : s.memCanonical) : t.memCanonical := by
  unfold State.memCanonical
  rw [hm]
  exact hs

/-- A store keeps memory canonical. -/
theorem State.memWrite_memCanonical {s : State} (hs : s.memCanonical) (cells : List (Nat × Byte)) :
    (s.memWrite cells).memCanonical := Memory.wf_writeBytes hs cells

/-- Settles O12: stores and the accessed and dirty bits a walk sets are all that changes memory, and both write it byte by
byte in canonical form. -/
theorem everyStepKeepsMemoryCanonical : Obligations.EveryStepKeepsMemoryCanonical := by
  unfold Obligations.EveryStepKeepsMemoryCanonical
  apply step_keeps
  case hplat => exact fun s => State.memCanonical_of_same rfl
  case hwalk => exact fun s t h hs => h.wf hs
  case hreg => exact fun s r w => State.memCanonical_of_same rfl
  case hpc => exact fun s => State.memCanonical_of_same rfl
  case hmem => exact fun s cells hs => State.memWrite_memCanonical hs cells
  case hfence => exact fun s scope => State.memCanonical_of_same rfl
  case htrap => exact fun s p hs _ _ => State.memCanonical_of_same (s.raise_mem p) hs
  case hint => exact fun s g c _ => State.memCanonical_of_same (s.takeInterrupt_mem g c)
  case hcsr => exact fun s t c w hs h => State.memCanonical_of_same (State.writeCsr_frame h).mem hs
  case hguest => exact fun s _ => State.memCanonical_of_same rfl
  case hhyper => exact fun s _ => State.memCanonical_of_same rfl
  case hmachine => exact fun s _ => State.memCanonical_of_same rfl

end Sys2Proof.Machine

/-! ## Memory, part 2: bytes of a value (20_memory.md R143, R147) -/

namespace Sys2Proof.Machine

/-- Byte k of a value, the least significant first, is its bits from 8k up. -/
theorem getElem?_lowBytes {n k : Nat} (w : Word) (hk : k < n) :
    (lowBytes n w)[k]? = some (w.extractLsb' (8 * k) 8) := by
  induction n generalizing w k with
  | zero => omega
  | succ n ih =>
    cases k with
    | zero => rw [lowBytes, List.getElem?_cons_zero, Nat.mul_zero, BitVec.setWidth_eq_extractLsb' (by omega)]
    | succ k =>
      rw [lowBytes, List.getElem?_cons_succ, ih _ (by omega)]
      refine congrArg some (BitVec.eq_of_getLsbD_eq fun i _ => ?_)
      rw [BitVec.getLsbD_extractLsb', BitVec.getLsbD_extractLsb', BitVec.getLsbD_ushiftRight,
        show 8 + (8 * k + i) = 8 * (k + 1) + i by omega]

/-- The byte at position k of a value laid out in a byte order. -/
theorem getElem?_bytesOfValue (be : Bool) {n k : Nat} (w : Word) (hk : k < n) :
    (bytesOfValue be n w)[k]? = some (w.extractLsb' (8 * (if be then n - 1 - k else k)) 8) := by
  cases be with
  | false => exact getElem?_lowBytes w hk
  | true =>
    show (lowBytes n w).reverse[k]? = _
    rw [List.getElem?_reverse (by rwa [lowBytes_length]), lowBytes_length]
    exact getElem?_lowBytes w (by omega)

/-- Settles O39, by the layout of a value and the reads after a list of writes. -/
theorem bytesWrittenReadBackInTheirOrder : Obligations.BytesWrittenReadBackInTheirOrder := by
  unfold Obligations.BytesWrittenReadBackInTheirOrder
  refine ⟨valueOfBytes_bytesOfValue, fun be n w k hk => getElem?_bytesOfValue be w hk,
    fun s addrs bs hs hdistinct hlen => ⟨Memory.readBytes_writeBytes hs addrs bs hdistinct hlen, fun a ha => ?_⟩⟩
  refine Memory.readByte_writeBytes_of_not_mem _ _ _ ?_
  rwa [List.map_fst_zip (Nat.le_of_eq hlen)]

end Sys2Proof.Machine

/-! ## Memory, part 3: the fetch in M-mode (20_memory.md R146, R149, R150, R173) -/

namespace Sys2Proof

/-! ### The decoder inverts the encoder (30_encoding.md R186 to R188) -/

/-- A word of the SYSTEM opcode goes to the decoder of its groups. -/
theorem decode_of_system {w : InstrWord} (hlow : w.extractLsb' 0 2 = 3) (hop : fieldOpcode w = opcodeSystem) :
    decode w = decodeSystem w := by
  rw [decode, if_neg (not_not_intro hlow), if_pos hop]

/-- Every row of the table is of the SYSTEM opcode. -/
theorem encode_system (i : Instr) : (encode i).extractLsb' 0 2 = 3 ∧ fieldOpcode (encode i) = opcodeSystem := by
  cases i with
  | csrrw | csrrs | csrrc | csrrwi | csrrsi | csrrci => exact ⟨lowBits_encodeCsr _ _ _ _, fieldOpcode_encodeCsr _ _ _ _⟩
  | ecall | ebreak | sret | mret | wfi | sfenceVma | hfenceVvma | hfenceGvma
  | hlvB | hlvBu | hlvH | hlvHu | hlvxHu | hlvW | hlvWu | hlvxWu | hlvD | hsvB | hsvH | hsvW | hsvD =>
    exact ⟨lowBits_encodeSys _ _ _ _ _, fieldOpcode_encodeSys _ _ _ _ _⟩

theorem decodeSystem_encodeSys_privileged (f7 : BitVec 7) (rs2 rs1 rd : Reg) :
    decodeSystem (encodeSys f7 rs2 rs1 0b000 rd) = decodePrivileged (encodeSys f7 rs2 rs1 0b000 rd) := by
  rw [decodeSystem, fieldFunct3_encodeSys]
  rfl

theorem decodeSystem_encodeSys_virtMem (f7 : BitVec 7) (rs2 rs1 rd : Reg) :
    decodeSystem (encodeSys f7 rs2 rs1 0b100 rd) = decodeVirtMem (encodeSys f7 rs2 rs1 0b100 rd) := by
  rw [decodeSystem, fieldFunct3_encodeSys]
  rfl

/-- The word of an instruction decodes to it. -/
theorem decode_encode (i : Instr) : decode (encode i) = .ok i := by
  obtain ⟨hlow, hop⟩ := encode_system i
  rw [decode_of_system hlow hop]
  cases i with
  | csrrw | csrrs | csrrc | csrrwi | csrrsi | csrrci =>
    simp [encode, decodeSystem, fieldFunct3_encodeCsr, fieldRd_encodeCsr, fieldCsr_encodeCsr, fieldRs1_encodeCsr]
  | ecall | ebreak | sret | mret | wfi | sfenceVma | hfenceVvma | hfenceGvma =>
    rw [encode, decodeSystem_encodeSys_privileged]
    simp [decodePrivileged, fieldFunct7_encodeSys, fieldRd_encodeSys, fieldRs1_encodeSys, fieldRs2_encodeSys]
  | hlvB | hlvBu | hlvH | hlvHu | hlvxHu | hlvW | hlvWu | hlvxWu | hlvD | hsvB | hsvH | hsvW | hsvD =>
    rw [encode, decodeSystem_encodeSys_virtMem]
    simp [decodeVirtMem, fieldFunct7_encodeSys, fieldRd_encodeSys, fieldRs1_encodeSys, fieldRs2_encodeSys]

end Sys2Proof

namespace Sys2Proof.Machine

/-! ### Parcels of a word -/

theorem addrsFrom_add (a m n : Nat) : addrsFrom a (m + n) = addrsFrom a m ++ addrsFrom (a + m) n := by
  simp only [addrsFrom, List.range_add, List.map_append, List.map_map, Function.comp_def, Nat.add_assoc]

theorem State.memRead_append (s : State) (as bs : List Nat) : s.memRead (as ++ bs) = s.memRead as ++ s.memRead bs :=
  List.map_append

/-- Two bytes of a word, the lower one first, are a parcel of it. -/
theorem parcel_of_bytes (w : InstrWord) (lo : Nat) :
    (valueOfBytes false [w.extractLsb' lo 8, w.extractLsb' (lo + 8) 8]).setWidth 16 = w.extractLsb' lo 16 := by
  apply BitVec.eq_of_toNat_eq
  simp only [valueOfBytes, Bool.false_eq_true, if_false, natOfBytes, BitVec.toNat_setWidth, BitVec.toNat_ofNat,
    BitVec.extractLsb'_toNat]
  rw [Nat.shiftRight_add, Nat.shiftRight_eq_div_pow _ 8]
  omega

/-! ### Reading a parcel -/

/-- A value that fits a width is held as it is. -/
theorem fit_of_lt {x : Xlen} {w : Word} (h : w.toNat < 2 ^ x.bits) : fit x w = w := by
  refine word_eq_of_bits fun i _ => ?_
  rw [bit_fit]
  by_cases hi : i < x.bits
  · simp [hi]
  · have hclear : bit w i = false :=
      Nat.testBit_lt_two_pow (Nat.lt_of_lt_of_le h (Nat.pow_le_pow_right (by decide) (by omega)))
    rw [hclear, Bool.false_and]

/-- An aligned pc is a multiple of 2. -/
theorem even_of_aligned {a : Nat} {g : Ialign} (h : a % ialignBytes g = 0) : a % 2 = 0 := by
  cases g with
  | i16 => exact h
  | i32 =>
    have hfour : a % 4 = 0 := h
    omega

section
variable {s : State} (hp : s.priv = .m) (hv : s.v = false)
include hp hv

/-- In M-mode no translation applies. -/
theorem State.translate_machine_fetch (va : Word) : s.translate va s.fetchAccess = .ok va.toNat s := by
  rw [State.translate, State.fetchAccess, hv, hp]
  rfl

/-- In M-mode the bytes of an even address are found where they are. -/
theorem State.locate_machine_fetch {va : Word} (ha : va.toNat % 2 = 0)
    (hmem : ∀ a ∈ addrsFrom va.toNat 2, isMemory s.cfg a = true) :
    s.locate va 2 s.fetchAccess = .ok (addrsFrom va.toNat 2) s := by
  have hphysical : s.physical va.toNat 2 = .ok (addrsFrom va.toNat 2) s := if_pos (List.all_eq_true.mpr hmem)
  rw [State.locate, if_pos (by omega), State.portion, State.translate_machine_fetch hp hv, Answer.andThen, hphysical]

/-- A parcel no byte of which was stored to is fetched. -/
theorem State.fetchParcel_machine {va : Word} (ha : va.toNat % 2 = 0)
    (hmem : ∀ a ∈ addrsFrom va.toNat 2, isMemory s.cfg a = true) (hclean : ∀ a ∈ addrsFrom va.toNat 2, a ∉ s.storedTo) :
    s.fetchParcel va = .ok ((valueOfBytes false (s.memRead (addrsFrom va.toNat 2))).setWidth 16) s := by
  have hfind : (addrsFrom va.toNat 2).find? (s.storedTo.contains ·) = none :=
    List.find?_eq_none.mpr fun a h => by simpa using hclean a h
  rw [State.fetchParcel, State.locate_machine_fetch hp hv ha hmem]
  dsimp only
  rw [hfind]

/-- A parcel a byte of which was stored to is stale. -/
theorem State.fetchParcel_machine_stale {va : Word} (ha : va.toNat % 2 = 0)
    (hmem : ∀ a ∈ addrsFrom va.toNat 2, isMemory s.cfg a = true) (hstored : ∃ a ∈ addrsFrom va.toNat 2, a ∈ s.storedTo) :
    ∃ a ∈ s.storedTo, s.fetchParcel va = .stale a := by
  obtain ⟨a, hfind⟩ : ∃ a, (addrsFrom va.toNat 2).find? (s.storedTo.contains ·) = some a :=
    Option.isSome_iff_exists.mp (List.find?_isSome.mpr (by simpa using hstored))
  refine ⟨a, by simpa using List.find?_some hfind, ?_⟩
  rw [State.fetchParcel, State.locate_machine_fetch hp hv ha hmem]
  dsimp only
  rw [hfind]

/-- The second parcel stands 2 above the pc, if that is an address of M-mode's width. -/
theorem State.toNat_secondParcel (hroom : s.pc.toNat + 4 ≤ 2 ^ s.cfg.hsxlen.bits) :
    (fit s.xlen (s.pc + 2)).toNat = s.pc.toNat + 2 := by
  have hxlen : s.xlen = s.cfg.hsxlen := by rw [State.xlen, hv, hp]; rfl
  have hbits : 2 ^ s.cfg.hsxlen.bits ≤ 2 ^ 64 := by cases s.cfg.hsxlen <;> decide
  have hsum : (s.pc + 2).toNat = s.pc.toNat + 2 := by
    rw [BitVec.toNat_add]
    exact Nat.mod_eq_of_lt (show s.pc.toNat + 2 < 2 ^ 64 by omega)
  rw [hxlen, fit_of_lt (by omega), hsum]

/-- In M-mode an aligned fetch gives the word whose four bytes stand at the pc (20_memory.md R146). -/
theorem State.fetch_machine (halign : s.pc.toNat % ialignBytes s.cfg.ialign = 0)
    (hroom : s.pc.toNat + 4 ≤ 2 ^ s.cfg.hsxlen.bits)
    (hclean : ∀ a ∈ addrsFrom s.pc.toNat 4, isMemory s.cfg a = true ∧ a ∉ s.storedTo)
    {w : InstrWord} (hbytes : s.memRead (addrsFrom s.pc.toNat 4) = bytesOfWord w) (hlow : w.extractLsb' 0 2 = 3) :
    s.fetch = .word w s := by
  have heven := even_of_aligned halign
  have hsecond := State.toNat_secondParcel hp hv hroom
  rw [addrsFrom_add s.pc.toNat 2 2, ← hsecond] at hclean hbytes
  rw [State.memRead_append] at hbytes
  obtain ⟨hclean0, hclean1⟩ := List.forall_mem_append.mp hclean
  obtain ⟨hbytes0, hbytes1⟩ := List.append_inj (s₂ := [w.extractLsb' 0 8, w.extractLsb' 8 8]) hbytes rfl
  have hparcel0 : s.fetchParcel s.pc = .ok (w.extractLsb' 0 16) s := by
    rw [State.fetchParcel_machine hp hv heven (fun a ha => (hclean0 a ha).1) fun a ha => (hclean0 a ha).2, hbytes0,
      parcel_of_bytes w 0]
  have hparcel1 : s.fetchParcel (fit s.xlen (s.pc + 2)) = .ok (w.extractLsb' 16 16) s := by
    rw [State.fetchParcel_machine hp hv (by omega) (fun a ha => (hclean1 a ha).1) fun a ha => (hclean1 a ha).2, hbytes1,
      parcel_of_bytes w 16]
  have hlong : ¬ (w.extractLsb' 0 16).extractLsb' 0 2 ≠ 0b11 := by
    rw [BitVec.extractLsb'_extractLsb'_of_le (by omega)]
    exact not_not_intro hlow
  rw [State.fetch, if_neg (not_not_intro halign), hparcel0]
  dsimp only
  rw [if_neg hlong, hparcel1]
  exact congrArg (Fetched.word · s) (BitVec.extractLsb'_append_extractLsb' (w := 16) (len := 16))

end

/-- A step with no interrupt to take runs the instruction the fetched word decodes to. -/
theorem step_of_fetch {s s' : State} {w : InstrWord} {i : Instr} (hi : s.interrupt = none) (hf : s.fetch = .word w s')
    (hd : decode w = .ok i) : step s = withPlatform (exec i s') := by
  simp only [step, hartStep, hi, hf, hd]

/-- Settles O6: the two parcels of the fetch are the instruction's word, which decodes to it. -/
theorem machineModeStepRunsTheBytesAtPc : Obligations.MachineModeStepRunsTheBytesAtPc := by
  unfold Obligations.MachineModeStepRunsTheBytesAtPc
  intro s i hi hp hv halign hroom hclean hbytes
  exact step_of_fetch hi (State.fetch_machine hp hv halign hroom hclean hbytes (encode_system i).1) (decode_encode i)

/-- Settles O10: the first parcel is found at the pc, and the fetch stops at its first byte that was stored to. -/
theorem fetchAfterStoreFaults : Obligations.FetchAfterStoreFaults := by
  unfold Obligations.FetchAfterStoreFaults
  intro s hi hp hv halign hmem hstored
  obtain ⟨a, ha, hparcel⟩ := State.fetchParcel_machine_stale hp hv (even_of_aligned halign) hmem hstored
  have hfetch : s.fetch = .stale a := by
    rw [State.fetch, if_neg (not_not_intro halign), hparcel]
  refine ⟨a, ?_, ha⟩
  simp only [step, hartStep, hi, hfetch, withPlatform]

end Sys2Proof.Machine

/-! ## Memory, part 4: cached copies of other virtual machines (20_memory.md R160, R165) -/

namespace Sys2Proof.Machine

/-! ### Lookups -/

/-- Dropping copies changes no lookup of a key it drops no copy of. -/
theorem tlbFind_filter {f : TlbEntry → Bool} {key : TlbKey} (hf : ∀ e : TlbEntry, e.key = key → f e = true)
    (l : List TlbEntry) : tlbFind (l.filter f) key = tlbFind l key := by
  induction l with
  | nil => rfl
  | cons e rest ih =>
    by_cases hkey : e.key = key
    · rw [List.filter_cons_of_pos (hf e hkey), tlbFind, tlbFind, if_pos hkey, if_pos hkey]
    · by_cases hkept : f e = true
      · rw [List.filter_cons_of_pos hkept, tlbFind, tlbFind, if_neg hkey, if_neg hkey, ih]
      · rw [List.filter_cons_of_neg hkept, tlbFind, if_neg hkey, ih]

/-- A copy inserted is the one its key finds, and other keys find what they did. -/
theorem tlbFind_tlbInsert (l : List TlbEntry) (key key' : TlbKey) (p : Word) (table : Nat) :
    tlbFind (tlbInsert l key p table) key' = if key = key' then some p else tlbFind l key' := by
  rw [tlbInsert, tlbFind]
  by_cases hkey : key = key'
  · rw [if_pos hkey, if_pos hkey]
  · rw [if_neg hkey, if_neg hkey]
    exact tlbFind_filter (fun e he => by rw [he]; exact bne_iff_ne.mpr (Ne.symm hkey)) l

/-! ### States that differ in copies no lookup finds -/

/-- Under `vmid`, the VMID in `hgatp`, a lookup finds in `l` what it finds among the cached copies of `s`. -/
structure State.FindsSame (s : State) (vmid : Nat) (l : List TlbEntry) : Prop where
  current : s.hgatpVmid = vmid
  find : ∀ key : TlbKey, key.vmid = vmid → tlbFind l key = tlbFind s.tlb key

/-- Two answers with one outcome, whose states differ in cached copies that no lookup under `vmid` finds. -/
inductive Answer.Agree {α : Type} (vmid : Nat) : Answer α → Answer α → Prop where
  | ok (x : α) {s : State} {l : List TlbEntry} : s.FindsSame vmid l → Agree vmid (.ok x s) (.ok x (s.setTlb l))
  | fault (f : AccFault) {s : State} {l : List TlbEntry} :
      s.FindsSame vmid l → Agree vmid (.fault f s) (.fault f (s.setTlb l))

section
variable {vmid : Nat} {s : State} {l : List TlbEntry}

theorem Answer.Agree.outcome_eq {α : Type} {a b : Answer α} (h : a.Agree vmid b) : b.outcome = a.outcome := by
  cases h <;> rfl

theorem Answer.Agree.andThen {α β : Type} {a b : Answer α} {j k : α → State → Answer β} (h : a.Agree vmid b)
    (hk : ∀ (x : α) {s : State} {l : List TlbEntry}, s.FindsSame vmid l → (j x s).Agree vmid (k x (s.setTlb l))) :
    (a.andThen j).Agree vmid (b.andThen k) := by
  cases h with
  | ok x hl => exact hk x hl
  | fault f hl => exact .fault f hl

/-- Where the condition is one of what the states share, the branches decide. -/
theorem Answer.Agree.ifThenElse {α : Type} {p : Prop} {hp hp' : Decidable p} {a a' b b' : Answer α}
    (h : a.Agree vmid b) (h' : a'.Agree vmid b') : (@ite _ p hp a a').Agree vmid (@ite _ p hp' b b') := by
  by_cases h0 : p
  · rwa [if_pos h0, if_pos h0]
  · rwa [if_neg h0, if_neg h0]

/-- A copy inserted into both is found in both. -/
theorem State.FindsSame.tlbInsert (h : s.FindsSame vmid l) (key : TlbKey) (p : Word) (table : Nat) :
    (s.setTlb (tlbInsert s.tlb key p table)).FindsSame vmid (tlbInsert l key p table) where
  current := h.current
  find key' hkey := by
    rw [State.setTlb_tlb, tlbFind_tlbInsert, tlbFind_tlbInsert, h.find key' hkey]

/-- Memory holds no cached copy. -/
theorem State.FindsSame.memWrite (h : s.FindsSame vmid l) (cells : List (Nat × Byte)) :
    (s.memWrite cells).FindsSame vmid l := ⟨h.current, h.find⟩

/-! ### The walk, stage by stage -/

theorem State.FindsSame.cachedPte (h : s.FindsSame vmid l) {key : TlbKey} (hkey : key.vmid = vmid) (table : Nat)
    (serves : Word → Bool) {read : State → Answer Word} (hread : (read s).Agree vmid (read (s.setTlb l))) :
    (s.cachedPte key table serves read).Agree vmid ((s.setTlb l).cachedPte key table serves read) := by
  have hrefill := hread.andThen (j := fun p s' => .ok p (s'.setTlb (Machine.tlbInsert s'.tlb key p table)))
    (k := fun p s' => .ok p (s'.setTlb (Machine.tlbInsert s'.tlb key p table)))
    fun p _ _ hl => .ok p (hl.tlbInsert key p table)
  unfold State.cachedPte
  rw [State.setTlb_tlb, h.find key hkey]
  cases tlbFind s.tlb key with
  | none => exact hrefill
  | some p => exact .ifThenElse (.ok p h) hrefill

theorem State.FindsSame.physical (h : s.FindsSame vmid l) (a n : Nat) :
    (s.physical a n).Agree vmid ((s.setTlb l).physical a n) := .ifThenElse (.ok _ h) (.fault _ h)

/-- A walk whose keys carry the VMID of `hgatp` and whose reads agree. -/
structure WalkCtx.UnderVmid (c : WalkCtx) (vmid : Nat) : Prop where
  key : ∀ level, (c.key level).vmid = vmid
  locate : ∀ (write : Bool) (a : Nat) {s : State} {l : List TlbEntry}, s.FindsSame vmid l →
    (c.locate write a s).Agree vmid (c.locate write a (s.setTlb l))

variable {c : WalkCtx}

theorem WalkCtx.UnderVmid.entry (hc : c.UnderVmid vmid) (h : s.FindsSame vmid l) (level base : Nat) :
    (c.entry level base s).Agree vmid (c.entry level base (s.setTlb l)) :=
  h.cachedPte (hc.key level) _ _ ((hc.locate false _ h).andThen fun _ _ _ hl => .ok _ hl)

theorem WalkCtx.UnderVmid.writePte (hc : c.UnderVmid vmid) (h : s.FindsSame vmid l) (level addr : Nat) (p : Word) :
    (c.writePte level addr p s).Agree vmid (c.writePte level addr p (s.setTlb l)) :=
  (hc.locate true _ h).andThen fun spas _ _ hl =>
    .ok () ((hl.memWrite (spas.zip (bytesOfValue c.be c.scheme.pteBytes p))).tlbInsert (c.key level) p (addr / 4096))

theorem WalkCtx.UnderVmid.walk (hc : c.UnderVmid vmid) (h : s.FindsSame vmid l) (levels : List Nat) (base : Nat) :
    (c.walk levels base s).Agree vmid (c.walk levels base (s.setTlb l)) := by
  induction levels generalizing base s l with
  | nil => exact .fault _ h
  | cons level rest ih =>
    rw [WalkCtx.walk, WalkCtx.walk]
    refine (hc.entry h level base).andThen fun p t m hm => ?_
    cases c.scheme.usePte level p c.input with
    | invalid => exact .fault _ hm
    | table next => exact ih hm next
    | leaf a =>
      have hupdate := (hc.writePte hm level (c.entryAddr level base) (withAD c.kind p)).andThen
        (j := fun _ t' => .ok a t') (k := fun _ t' => .ok a t') fun _ _ _ hn => .ok a hn
      exact .ifThenElse (.fault _ hm) (.ifThenElse (.ok a hm) (.ifThenElse (.fault _ hm) hupdate))

theorem State.FindsSame.gWalk (h : s.FindsSame vmid l) (sch : Scheme) (gpa : Nat) (k : AccKind) (mxr im : Bool) (n : Nat) :
    (s.gWalk sch gpa k mxr im n).UnderVmid vmid where
  key _ := h.current
  locate _ a _ _ hl := hl.physical a sch.pteBytes

theorem State.FindsSame.gStage (h : s.FindsSame vmid l) (gpa : Nat) (k : AccKind) (mxr im : Bool) (n : Nat) :
    (s.gStage gpa k mxr im n).Agree vmid ((s.setTlb l).gStage gpa k mxr im n) := by
  unfold State.gStage
  rw [show (s.setTlb l).hgatpMode = s.hgatpMode from rfl, State.setTlb_cfg]
  cases schemeOf s.cfg.hsxlen s.hgatpMode true with
  | none => exact .ok gpa h
  | some sch => exact .ifThenElse (.fault _ h) ((h.gWalk sch gpa k mxr im n).walk h _ _)

theorem State.FindsSame.vsWalk (h : s.FindsSame vmid l) (sch : Scheme) (gva : Nat) (acc : Access) :
    (s.vsWalk sch gva acc).UnderVmid vmid where
  key _ := h.current
  locate _ _ _ _ hl := (hl.gStage _ _ _ _ _).andThen fun _ _ _ hm => hm.physical _ _

theorem State.FindsSame.vsStage (h : s.FindsSame vmid l) (gva : Nat) (acc : Access) :
    (s.vsStage gva acc).Agree vmid ((s.setTlb l).vsStage gva acc) := by
  unfold State.vsStage
  rw [show (s.setTlb l).vsxlen = s.vsxlen from rfl, State.setTlb_vs]
  cases schemeOf s.vsxlen (satpMode s.vsxlen s.vs.vsatp) false with
  | none => exact .ok gva h
  | some sch => exact .ifThenElse (.fault _ h) ((h.vsWalk sch gva acc).walk h _ _)

/-- A two-stage translation looks at no cached copy of another VMID. -/
theorem State.FindsSame.translate (h : s.FindsSame vmid l) {acc : Access} (hv : acc.effV = true) (va : Word) :
    (s.translate va acc).Agree vmid ((s.setTlb l).translate va acc) := by
  rw [State.translate_two hv, State.translate_two hv]
  exact (h.vsStage _ acc).andThen fun gpa _ _ hl => hl.gStage gpa _ _ _ _

end

/-- Settles O41: dropping copies of other VMIDs leaves every lookup of the two stages as it was, all of which are under the
VMID of `hgatp`. -/
theorem translationIgnoresOtherVirtualMachines : Obligations.TranslationIgnoresOtherVirtualMachines := by
  unfold Obligations.TranslationIgnoresOtherVirtualMachines
  intro s va acc hv
  have hkeeps : s.FindsSame s.hgatpVmid
      (s.tlb.filter fun e => !(e.key.stage != .single && e.key.vmid != s.hgatpVmid)) :=
    ⟨rfl, fun key hkey => tlbFind_filter (fun e he => by rw [he, hkey]; simp) s.tlb⟩
  exact (hkeeps.translate hv va).outcome_eq

end Sys2Proof.Machine

/-! ## Encoding, part 1: a word and the instruction it decodes to (30_encoding.md R181, R182, R186 to R188) -/

namespace Sys2Proof

/-- Settles O1: the word of an instruction is of the SYSTEM opcode, and its fields are the instruction's operands. -/
theorem decodeInvertsEncode : Obligations.DecodeInvertsEncode := decode_encode

/-- Settles O3: the decoder evaluated on each word. -/
theorem sampleWordsDecodeAsTabled : Obligations.SampleWordsDecodeAsTabled := ⟨rfl, rfl, rfl, rfl, rfl, rfl, rfl, rfl⟩

/-- A word of the SYSTEM opcode is a 32-bit instruction. -/
theorem lowBits_of_system {w : InstrWord} (hop : fieldOpcode w = opcodeSystem) : w.extractLsb' 0 2 = 3 :=
  calc w.extractLsb' 0 2
    _ = (fieldOpcode w).extractLsb' 0 2 := (BitVec.extractLsb'_extractLsb'_of_le (by omega)).symm
    _ = 3 := by rw [hop]; rfl

/-- What a decoder of SYSTEM words may answer at a word: the instruction the word encodes, or that the word is reserved. -/
def SystemAnswer (w : InstrWord) : Except Reject Instr → Prop
  | .ok i => encode i = w
  | .error e => e = .reservedSystem

theorem SystemAnswer.ite {w : InstrWord} {c : Prop} [Decidable c] {a b : Except Reject Instr}
    (ha : c → SystemAnswer w a) (hb : ¬ c → SystemAnswer w b) : SystemAnswer w (if c then a else b) := by
  split
  · next hc => exact ha hc
  · next hc => exact hb hc

/-- Each test of the privileged group fixes the fields that are no operand of the instruction it selects. -/
theorem systemAnswer_decodePrivileged {w : InstrWord} {f7 : BitVec 7} {rs2 rs1 rd : Reg}
    (hw : encodeSys f7 rs2 rs1 0 rd = w) : SystemAnswer w (decodePrivileged w) := by
  subst hw
  rw [decodePrivileged, fieldFunct7_encodeSys, fieldRs1_encodeSys, fieldRs2_encodeSys, fieldRd_encodeSys]
  refine .ite (fun _ => rfl) fun hrd => ?_
  obtain rfl := Decidable.not_not.mp hrd
  iterate 3 refine .ite (fun hf7 => by rw [hf7]; rfl) fun _ => ?_
  refine .ite (fun _ => rfl) fun hrs1 => ?_
  obtain rfl := Decidable.not_not.mp hrs1
  iterate 5 refine .ite (fun ⟨hf7, hrs2⟩ => by rw [hf7, hrs2]; rfl) fun _ => ?_
  rfl

/-- Each test of the load and store group fixes the fields that are no operand: rs2 of a load, rd of a store. -/
theorem systemAnswer_decodeVirtMem {w : InstrWord} {f7 : BitVec 7} {rs2 rs1 rd : Reg}
    (hw : encodeSys f7 rs2 rs1 4 rd = w) : SystemAnswer w (decodeVirtMem w) := by
  subst hw
  rw [decodeVirtMem, fieldFunct7_encodeSys, fieldRs1_encodeSys, fieldRs2_encodeSys, fieldRd_encodeSys]
  iterate 13 refine .ite (fun ⟨hf7, hreg⟩ => by rw [hf7, hreg]; rfl) fun _ => ?_
  rfl

/-- A word of the SYSTEM opcode is the encoding of what it decodes to, or is reserved. -/
theorem systemAnswer_decode {w : InstrWord} (hop : fieldOpcode w = opcodeSystem) : SystemAnswer w (decode w) := by
  have hsys := encodeSys_fields w hop
  have hcsr := encodeCsr_fields w hop
  rw [decode_of_system (lowBits_of_system hop) hop, decodeSystem]
  generalize fieldFunct3 w = f3 at *
  match f3 with
  | 0 => exact systemAnswer_decodePrivileged hsys
  | 4 => exact systemAnswer_decodeVirtMem hsys
  | 1 | 2 | 3 | 5 | 6 | 7 => exact hcsr

/-- Only words of the SYSTEM opcode decode to an instruction. -/
theorem fieldOpcode_of_decode {w : InstrWord} {i : Instr} (h : decode w = .ok i) : fieldOpcode w = opcodeSystem := by
  rw [decode] at h
  split at h
  · cases h
  · split at h
    · next hop => exact hop
    · split at h <;> cases h

/-- Decoding and encoding are inverse to each other. -/
theorem decode_eq_ok_iff {w : InstrWord} {i : Instr} : decode w = .ok i ↔ encode i = w := by
  refine ⟨fun h => ?_, fun h => h ▸ decode_encode i⟩
  have hanswer := systemAnswer_decode (fieldOpcode_of_decode h)
  rwa [h] at hanswer

/-! ### The rows of the opcode table -/

/-- The word of an instruction matches the instruction's row. -/
theorem encode_matches_row (i : Instr) : encode i &&& i.rowMask = i.rowMatch := by
  cases i with
  | csrrw | csrrs | csrrc | csrrwi | csrrsi | csrrci => exact (Laws.RowEncoding.csr_row _ _ _ _).trans rfl
  | ecall | ebreak | sret | mret | wfi => exact BitVec.and_allOnes
  | sfenceVma | hfenceVvma | hfenceGvma | hsvB | hsvH | hsvW | hsvD =>
    exact (Laws.RowEncoding.two_sources_row _ _ _ _).trans rfl
  | hlvB | hlvBu | hlvH | hlvHu | hlvxHu | hlvW | hlvWu | hlvxWu | hlvD =>
    exact (Laws.RowEncoding.load_row _ _ _ _ _).trans rfl

/-- A field that the mask covers is the match value's. -/
theorem extractLsb'_of_mask {w mask m : InstrWord} {lo n : Nat} (h : w &&& mask = m)
    (hcovers : mask.extractLsb' lo n = BitVec.allOnes n) : w.extractLsb' lo n = m.extractLsb' lo n := by
  rw [← h, BitVec.extractLsb'_and, hcovers, BitVec.and_allOnes]

section
variable {w : InstrWord}

/-- A word that matches the row of a CSR instruction is one of its encodings. -/
theorem encodeCsr_of_row {f3 : BitVec 3} (h : w &&& 0x0000707F = encodeCsr f3 0 0 0) :
    encodeCsr f3 (fieldRd w) (fieldCsr w) (fieldRs1 w) = w := by
  have hop : fieldOpcode w = opcodeSystem := (extractLsb'_of_mask h rfl).trans (fieldOpcode_encodeCsr f3 0 0 0)
  have hf3 : fieldFunct3 w = f3 := (extractLsb'_of_mask h rfl).trans (fieldFunct3_encodeCsr f3 0 0 0)
  rw [← hf3, encodeCsr_fields w hop]

/-- A word that matches the row of a fence or a store is one of its encodings: rs2 and rs1 are operands. -/
theorem encodeSys_of_two_sources_row {f7 : BitVec 7} {f3 : BitVec 3} (h : w &&& 0xFE007FFF = encodeSys f7 0 0 f3 0) :
    encodeSys f7 (fieldRs2 w) (fieldRs1 w) f3 0 = w := by
  have hop : fieldOpcode w = opcodeSystem := (extractLsb'_of_mask h rfl).trans (fieldOpcode_encodeSys f7 0 0 f3 0)
  have hf7 : fieldFunct7 w = f7 := (extractLsb'_of_mask h rfl).trans (fieldFunct7_encodeSys f7 0 0 f3 0)
  have hf3 : fieldFunct3 w = f3 := (extractLsb'_of_mask h rfl).trans (fieldFunct3_encodeSys f7 0 0 f3 0)
  have hrd : fieldRd w = 0 := (extractLsb'_of_mask h rfl).trans (fieldRd_encodeSys f7 0 0 f3 0)
  rw [← hf7, ← hf3, ← hrd, encodeSys_fields w hop]

/-- A word that matches the row of a load is one of its encodings: rs1 and rd are operands. -/
theorem encodeSys_of_load_row {f7 : BitVec 7} {rs2 : Reg} {f3 : BitVec 3} (h : w &&& 0xFFF0707F = encodeSys f7 rs2 0 f3 0) :
    encodeSys f7 rs2 (fieldRs1 w) f3 (fieldRd w) = w := by
  have hop : fieldOpcode w = opcodeSystem := (extractLsb'_of_mask h rfl).trans (fieldOpcode_encodeSys f7 rs2 0 f3 0)
  have hf7 : fieldFunct7 w = f7 := (extractLsb'_of_mask h rfl).trans (fieldFunct7_encodeSys f7 rs2 0 f3 0)
  have hrs2 : fieldRs2 w = rs2 := (extractLsb'_of_mask h rfl).trans (fieldRs2_encodeSys f7 rs2 0 f3 0)
  have hf3 : fieldFunct3 w = f3 := (extractLsb'_of_mask h rfl).trans (fieldFunct3_encodeSys f7 rs2 0 f3 0)
  rw [← hf7, ← hrs2, ← hf3, encodeSys_fields w hop]

/-- A row without operands has one word. -/
theorem eq_of_full_row {m : InstrWord} (h : w &&& 0xFFFFFFFF = m) : m = w := h.symm.trans BitVec.and_allOnes

/-- A word that matches a row is the encoding of an instruction of that row. -/
theorem exists_encode_of_row {i : Instr} (h : w &&& i.rowMask = i.rowMatch) :
    ∃ j, encode j = w ∧ j.rowMatch = i.rowMatch := by
  cases i with
  | csrrw => exact ⟨.csrrw _ _ _, encodeCsr_of_row h, rfl⟩
  | csrrs => exact ⟨.csrrs _ _ _, encodeCsr_of_row h, rfl⟩
  | csrrc => exact ⟨.csrrc _ _ _, encodeCsr_of_row h, rfl⟩
  | csrrwi => exact ⟨.csrrwi _ _ _, encodeCsr_of_row h, rfl⟩
  | csrrsi => exact ⟨.csrrsi _ _ _, encodeCsr_of_row h, rfl⟩
  | csrrci => exact ⟨.csrrci _ _ _, encodeCsr_of_row h, rfl⟩
  | ecall => exact ⟨.ecall, eq_of_full_row h, rfl⟩
  | ebreak => exact ⟨.ebreak, eq_of_full_row h, rfl⟩
  | sret => exact ⟨.sret, eq_of_full_row h, rfl⟩
  | mret => exact ⟨.mret, eq_of_full_row h, rfl⟩
  | wfi => exact ⟨.wfi, eq_of_full_row h, rfl⟩
  | sfenceVma => exact ⟨.sfenceVma _ _, encodeSys_of_two_sources_row h, rfl⟩
  | hfenceVvma => exact ⟨.hfenceVvma _ _, encodeSys_of_two_sources_row h, rfl⟩
  | hfenceGvma => exact ⟨.hfenceGvma _ _, encodeSys_of_two_sources_row h, rfl⟩
  | hlvB => exact ⟨.hlvB _ _, encodeSys_of_load_row h, rfl⟩
  | hlvBu => exact ⟨.hlvBu _ _, encodeSys_of_load_row h, rfl⟩
  | hlvH => exact ⟨.hlvH _ _, encodeSys_of_load_row h, rfl⟩
  | hlvHu => exact ⟨.hlvHu _ _, encodeSys_of_load_row h, rfl⟩
  | hlvxHu => exact ⟨.hlvxHu _ _, encodeSys_of_load_row h, rfl⟩
  | hlvW => exact ⟨.hlvW _ _, encodeSys_of_load_row h, rfl⟩
  | hlvWu => exact ⟨.hlvWu _ _, encodeSys_of_load_row h, rfl⟩
  | hlvxWu => exact ⟨.hlvxWu _ _, encodeSys_of_load_row h, rfl⟩
  | hlvD => exact ⟨.hlvD _ _, encodeSys_of_load_row h, rfl⟩
  | hsvB => exact ⟨.hsvB _ _, encodeSys_of_two_sources_row h, rfl⟩
  | hsvH => exact ⟨.hsvH _ _, encodeSys_of_two_sources_row h, rfl⟩
  | hsvW => exact ⟨.hsvW _ _, encodeSys_of_two_sources_row h, rfl⟩
  | hsvD => exact ⟨.hsvD _ _, encodeSys_of_two_sources_row h, rfl⟩

end

/-- Settles O2: a decoded word is its instruction's encoding, which matches the row; and a word that
matches a row is an encoding of that row. -/
theorem decodingIsMaskAndMatch : Obligations.DecodingIsMaskAndMatch := by
  unfold Obligations.DecodingIsMaskAndMatch
  refine ⟨fun w i h => ?_, fun w i h => ?_⟩
  · obtain rfl := decode_eq_ok_iff.mp h
    exact ⟨encode_matches_row i, rfl⟩
  · obtain ⟨j, rfl, hrow⟩ := exists_encode_of_row h
    exact ⟨j, decode_encode j, hrow⟩

end Sys2Proof

/-! ## Encoding, part 2: SYSTEM words of no row (30_encoding.md R189) -/

namespace Sys2Proof.Machine

/-- A word of the SYSTEM opcode that matches no row is reserved. -/
theorem decode_of_no_row {w : InstrWord} (hop : fieldOpcode w = opcodeSystem)
    (hnone : ∀ i : Instr, w &&& i.rowMask ≠ i.rowMatch) : decode w = .error .reservedSystem := by
  have hanswer := systemAnswer_decode hop
  cases hd : decode w with
  | error r =>
    rw [hd] at hanswer
    exact congrArg Except.error hanswer
  | ok i =>
    obtain rfl := decode_eq_ok_iff.mp hd
    exact absurd (encode_matches_row i) (hnone i)

/-- Settles O4: the word is reserved, and a reserved word raises the illegal instruction exception. -/
theorem unmatchedSystemWordIsIllegal : Obligations.UnmatchedSystemWordIsIllegal := by
  unfold Obligations.UnmatchedSystemWordIsIllegal
  intro s s' w hi hf hop hnone
  rw [step_of_rejected hi hf (decode_of_no_row hop hnone)]
  rfl

end Sys2Proof.Machine

/-! ## Access, part 1: what the platform's part of a step finds unchanged (40_csr_access.md R234, 92_eei_decisions.md D31) -/

namespace Sys2Proof.Machine

/-- The parameters, the counters and the step index are as they were: what `State.platformStep` draws the next ones from. -/
structure SameClock (s t : State) : Prop where
  cfg : t.cfg = s.cfg
  counters : t.counters = s.counters
  tick : t.tick = s.tick

theorem SameClock.trans {s t u : State} (h : SameClock s t) (k : SameClock t u) : SameClock s u :=
  ⟨k.cfg.trans h.cfg, k.counters.trans h.counters, k.tick.trans h.tick⟩

theorem Walked.sameClock {s t : State} (h : Walked s t) : SameClock s t := ⟨h.cfg, h.counters, h.tick⟩

theorem CsrFrame.sameClock {s t : State} (h : CsrFrame s t) : SameClock s t := ⟨h.cfg, h.counters, h.tick⟩

theorem State.enter_sameClock (s : State) (g : Target) (t : Trap) (epc : Word) : SameClock s (s.enter g t epc) :=
  ⟨s.enter_cfg g t epc, s.enter_counters g t epc, s.enter_tick g t epc⟩

/-- No instruction writes a counter or moves the step index. -/
theorem Effect.sameClock {i : Instr} {s t : State} (h : Effect i s t) : SameClock s t := by
  cases h with
  | trapped s' p hw => exact hw.sameClock.trans (s'.enter_sameClock _ p _)
  | csrWritten s' a c v rd w _ _ _ hframe => exact hframe.sameClock.trans ⟨rfl, rfl, rfl⟩
  | loaded s' rd w hw => exact hw.sameClock.trans ⟨rfl, rfl, rfl⟩
  | stored s' cells hw => exact hw.sameClock.trans ⟨rfl, rfl, rfl⟩
  | csrRead | fenced | moved | returnedGuest | returnedHyper | returnedMachine => exact ⟨rfl, rfl, rfl⟩

/-- A step is a part of the hart, which leaves the clock alone, and the platform's part. -/
theorem step_sameClock {s t : State} (h : step s = .next t) : ∃ u, SameClock s u ∧ t = u.platformStep := by
  obtain ⟨u, rfl, hu⟩ := step_cases h
  refine ⟨u, ?_, rfl⟩
  rcases hu with ⟨g, c, -, rfl⟩ | ⟨p, s', -, -, hw, rfl⟩ | ⟨w, s', i, -, -, hw, -, he⟩ | ⟨w, s', -, -, hw, rfl⟩
  · exact s.enter_sameClock g _ _
  · exact hw.sameClock.trans (s'.enter_sameClock _ p _)
  · exact hw.sameClock.trans (exec_effect he).sameClock
  · exact hw.sameClock.trans (s'.enter_sameClock _ _ _)

/-- `time` as drawn after a step is never below what it was. -/
theorem time_le_countersAfter (old : Vector (BitVec 64) 32) (n : Nat) :
    old[1].toNat ≤ (countersAfter old n)[1].toNat := by
  have hdrawn : (countersAfter old n)[1] = if Config.counterAt 1 n < old[1] then old[1] else Config.counterAt 1 n := by
    simp [countersAfter]
  rw [hdrawn]
  split
  · exact Nat.le_refl _
  · next hge => exact Nat.le_of_not_lt hge

/-- Settles O8: the hart's part keeps the clock, and the platform's part counts the step and draws `time` no lower. -/
theorem stepKeepsParametersAndTimeRises : Obligations.StepKeepsParametersAndTimeRises := by
  unfold Obligations.StepKeepsParametersAndTimeRises
  intro s t hstep
  obtain ⟨u, hu, rfl⟩ := step_sameClock hstep
  refine ⟨hu.cfg, congrArg (· + 1) hu.tick, ?_⟩
  rw [State.platformStep_counters, ← hu.counters]
  exact time_le_countersAfter u.counters u.tick

end Sys2Proof.Machine

/-! ## Access, part 2: the checks of a CSR access, class by class (40_csr_access.md R211 to R220) -/

namespace Sys2Proof.Machine

/-- The registers a hart has only at an XLEN of 32 (10_state.md R91, 30_encoding.md R185). -/
def Csr.onlyNarrow : Csr → Bool
  | .htimedeltah | .mstatush | .counterh _ => true
  | _ => false

theorem State.hasCsr_of_not_onlyNarrow {c : Csr} (h : c.onlyNarrow = false) (s : State) : s.hasCsr c = true := by
  cases c with
  | htimedeltah | mstatush | counterh n => cases h
  | _ => rfl

/-- The address is that of a register the hart has, and the access is no write to a read-only address: the checks that come
before those of the register's class. -/
structure State.Names (s : State) (a : CsrAddr) (w : Bool) (c : Csr) : Prop where
  addr : csrAt a = some c
  has : s.hasCsr c = true
  allowed : (w && a.extractLsb' 10 2 == 3) = false

/-- Where bits 11:10 of the address are not 11 every access is allowed (40_csr_access.md R212). -/
theorem State.names_of_writable {a : CsrAddr} {c : Csr} (haddr : csrAt a = some c) (hwide : c.onlyNarrow = false)
    (hwrite : a.extractLsb' 10 2 ≠ 3) (s : State) (w : Bool) : s.Names a w c where
  addr := haddr
  has := s.hasCsr_of_not_onlyNarrow hwide
  allowed := by rw [beq_eq_false_iff_ne.mpr hwrite, Bool.and_false]

/-- Every address may be read. -/
theorem State.names_of_read {s : State} {a : CsrAddr} {c : Csr} (haddr : csrAt a = some c) (hhas : s.hasCsr c = true) :
    s.Names a false c where
  addr := haddr
  has := hhas
  allowed := rfl

/-! ### Before the class: registers that do not exist, read-only addresses (R212) -/

theorem State.resolveCsr_of_no_csr {a : CsrAddr} (h : csrAt a = none) (s : State) (w : Bool) :
    s.resolveCsr a w = .error excIllegal := by
  rw [State.resolveCsr, h]

theorem State.resolveCsr_of_not_has {s : State} {a : CsrAddr} {c : Csr} (h : csrAt a = some c)
    (hhas : s.hasCsr c = false) (w : Bool) : s.resolveCsr a w = .error excIllegal := by
  rw [State.resolveCsr, h]
  simp [hhas]

theorem State.resolveCsr_of_write_read_only {a : CsrAddr} (h : a.extractLsb' 10 2 = 3) (s : State) :
    s.resolveCsr a true = .error excIllegal := by
  cases hat : csrAt a with
  | none => exact State.resolveCsr_of_no_csr hat s true
  | some c =>
    cases hhas : s.hasCsr c with
    | false => exact State.resolveCsr_of_not_has hat hhas true
    | true =>
      rw [State.resolveCsr, hat]
      simp [hhas, h]

/-! ### The classes (R213 to R219) -/

section
variable {s : State} {a : CsrAddr} {w : Bool} {c : Csr} (h : s.Names a w c)
include h

/-- Machine CSRs are M-mode's alone. -/
theorem State.Names.resolve_machine (hcls : c.cls = .machine) :
    s.resolveCsr a w = if s.priv = .m then .ok c else .error excIllegal := by
  simp only [State.resolveCsr, h.addr, h.has, h.allowed, hcls, Bool.not_true, Bool.false_eq_true, if_false]

/-- Counters are gated by the enable registers. -/
theorem State.Names.resolve_counter {n : BitVec 5} (hcls : c.cls = .counter n) :
    s.resolveCsr a w = (s.counterBar n).elim (.ok c) .error := by
  cases hbar : s.counterBar n <;>
    simp only [State.resolveCsr, h.addr, h.has, h.allowed, hcls, Bool.not_true, Bool.false_eq_true, if_false, hbar,
      Option.elim]

/-- Hypervisor and VS CSRs are HS-mode's and M-mode's. -/
theorem State.Names.resolve_hypervisor (hcls : c.cls = .hyper ∨ c.cls = .vs) :
    s.resolveCsr a w =
      if s.v then .error excVirtual
      else if s.priv = .u then .error excIllegal
      else if s.priv = .s ∧ s.mstatusTvm = true ∧ tvmBars c = true then .error excIllegal
      else .ok c := by
  rcases hcls with hcls | hcls <;>
    simp only [State.resolveCsr, h.addr, h.has, h.allowed, hcls, Bool.not_true, Bool.false_eq_true, if_false]

/-- A supervisor CSR with a replica is itself at V = 0. -/
theorem State.Names.resolve_sup_host {r : Csr} (hcls : c.cls = .sup r) (hv : s.v = false) :
    s.resolveCsr a w =
      if s.priv = .u then .error excIllegal
      else if s.priv = .s ∧ s.mstatusTvm = true ∧ tvmBars c = true then .error excIllegal
      else .ok c := by
  simp only [State.resolveCsr, h.addr, h.has, h.allowed, hcls, Bool.not_true, Bool.false_eq_true, if_false, hv]

/-- A supervisor CSR with a replica is the replica at V = 1. -/
theorem State.Names.resolve_sup_guest {r : Csr} (hcls : c.cls = .sup r) (hv : s.v = true) :
    s.resolveCsr a w =
      if s.priv = .u then .error excVirtual
      else if c = .satp ∧ s.vtvm = true then .error excVirtual
      else .ok r := by
  simp only [State.resolveCsr, h.addr, h.has, h.allowed, hcls, Bool.not_true, Bool.false_eq_true, if_false, if_true, hv]

/-- A supervisor CSR without a replica is itself at either V. -/
theorem State.Names.resolve_supOnly (hcls : c.cls = .supOnly) :
    s.resolveCsr a w = if s.priv = .u then .error (if s.v then excVirtual else excIllegal) else .ok c := by
  simp only [State.resolveCsr, h.addr, h.has, h.allowed, hcls, Bool.not_true, Bool.false_eq_true, if_false]

/-! ### The modes -/

/-- A hypervisor or VS CSR that TVM does not gate, in each mode. -/
theorem State.Names.hypervisor_answers (hcls : c.cls = .hyper ∨ c.cls = .vs) (htvm : tvmBars c = false) :
    (s.v = true → s.csrAnswers a w (.error 22)) ∧
    (s.v = false → s.priv = .u → s.csrAnswers a w (.error 2)) ∧
    (s.v = false → s.priv ≠ .u → s.csrAnswers a w (.ok c)) := by
  have hresolve := h.resolve_hypervisor hcls
  refine ⟨fun hv => ?_, fun hv hu => ?_, fun hv hu => ?_⟩
  · exact State.csrAnswers_of_resolveCsr (by rw [hresolve, if_pos hv]; rfl)
  · exact State.csrAnswers_of_resolveCsr (by simp [hresolve, hv, hu, excIllegal])
  · exact State.csrAnswers_of_resolveCsr (by simp [hresolve, hv, hu, htvm])

/-- A supervisor CSR with a replica that neither TVM nor VTVM gates, in each mode. -/
theorem State.Names.sup_answers {r : Csr} (hcls : c.cls = .sup r) (htvm : tvmBars c = false) :
    (s.priv ≠ .u → s.csrAnswers a w (.ok (if s.v then r else c))) ∧
    (s.priv = .u → s.csrAnswers a w (.error (if s.v then 22 else 2))) := by
  have hsatp : c ≠ .satp := fun e => by rw [e] at htvm; cases htvm
  cases hv : s.v with
  | false =>
    have hresolve := h.resolve_sup_host hcls hv
    exact ⟨fun hu => State.csrAnswers_of_resolveCsr (by simp [hresolve, hu, htvm]),
      fun hu => State.csrAnswers_of_resolveCsr (by rw [hresolve, if_pos hu]; rfl)⟩
  | true =>
    have hresolve := h.resolve_sup_guest hcls hv
    exact ⟨fun hu => State.csrAnswers_of_resolveCsr (by simp [hresolve, hu, hsatp]),
      fun hu => State.csrAnswers_of_resolveCsr (by rw [hresolve, if_pos hu]; rfl)⟩

end

/-! ### The addresses by class (30_encoding.md R184, R185) -/

theorem vsCsrAddrs_spec : ∀ p ∈ vsCsrAddrs, csrAt (BitVec.ofNat 12 p.1) = some p.2 ∧ p.2.onlyNarrow = false ∧
    (BitVec.ofNat 12 p.1).extractLsb' 10 2 ≠ 3 ∧ p.2.cls = .vs ∧ tvmBars p.2 = false := by decide

theorem hypCsrAddrs_spec : ∀ p ∈ hypCsrAddrs, csrAt (BitVec.ofNat 12 p.1) = some p.2 ∧ p.2.onlyNarrow = false ∧
    (p.2 = .hgeip ↔ (BitVec.ofNat 12 p.1).extractLsb' 10 2 = 3) ∧ p.2.cls = .hyper ∧ tvmBars p.2 = false := by decide

theorem supCsrAddrs_spec : ∀ p ∈ supCsrAddrs, csrAt (BitVec.ofNat 12 p.1) = some p.2.1 ∧ p.2.1.onlyNarrow = false ∧
    (BitVec.ofNat 12 p.1).extractLsb' 10 2 ≠ 3 ∧ p.2.1.cls = .sup p.2.2 ∧ tvmBars p.2.1 = false := by decide

theorem machCsrAddrs_spec : ∀ p ∈ machCsrAddrs, csrAt (BitVec.ofNat 12 p.1) = some p.2 ∧ p.2.onlyNarrow = false ∧
    (BitVec.ofNat 12 p.1).extractLsb' 10 2 ≠ 3 ∧ p.2.cls = .machine := by decide

/-- Settles O42: the modes of the two classes, `hgeip` being the one of them at a read-only address. -/
theorem vsAndHypervisorCsrsAreReachedOnlyFromHsAndMMode :
    Obligations.VsAndHypervisorCsrsAreReachedOnlyFromHsAndMMode := by
  unfold Obligations.VsAndHypervisorCsrsAreReachedOnlyFromHsAndMMode
  refine ⟨fun s w p hp => ?_, fun s w p hp => ?_⟩
  · obtain ⟨haddr, hwide, hwrite, hcls, htvm⟩ := vsCsrAddrs_spec p hp
    exact (State.names_of_writable haddr hwide hwrite s w).hypervisor_answers (.inr hcls) htvm
  · obtain ⟨haddr, hwide, hreadOnly, hcls, htvm⟩ := hypCsrAddrs_spec p hp
    refine ⟨fun hw hgeip => ?_, fun hallowed => ?_⟩
    · subst hw
      exact State.csrAnswers_of_resolveCsr (State.resolveCsr_of_write_read_only (hreadOnly.mp hgeip) s)
    · have hnames : s.Names (BitVec.ofNat 12 p.1) w p.2 := by
        rcases hallowed with rfl | hne
        · exact State.names_of_read haddr (s.hasCsr_of_not_onlyNarrow hwide)
        · exact State.names_of_writable haddr hwide (mt hreadOnly.mpr hne) s w
      exact hnames.hypervisor_answers (.inl hcls) htvm

/-- Settles O43: each name has its class, and `scounteren` is the one without a replica. -/
theorem supervisorCsrNamesReachReplicasInVsMode : Obligations.SupervisorCsrNamesReachReplicasInVsMode := by
  unfold Obligations.SupervisorCsrNamesReachReplicasInVsMode
  refine ⟨fun s w p hp => ?_, fun s w => ?_⟩
  · obtain ⟨haddr, hwide, hwrite, hcls, htvm⟩ := supCsrAddrs_spec p hp
    exact (State.names_of_writable haddr hwide hwrite s w).sup_answers hcls htvm
  · have hnames : s.Names 0x106 w .scounteren := State.names_of_writable (by decide) rfl (by decide) s w
    have hresolve := hnames.resolve_supOnly rfl
    exact ⟨fun hu => State.csrAnswers_of_resolveCsr (by rw [hresolve, if_neg hu]),
      fun hu => State.csrAnswers_of_resolveCsr (by rw [hresolve, if_pos hu]; rfl)⟩

/-- Settles O45: the checks before the class, and the class of the machine CSRs. -/
theorem unimplementedReadOnlyAndMachineCsrsAreIllegal : Obligations.UnimplementedReadOnlyAndMachineCsrsAreIllegal := by
  unfold Obligations.UnimplementedReadOnlyAndMachineCsrsAreIllegal
  refine ⟨fun s a w hnone => ?_, fun s a hreadOnly => ?_, fun s w hx => ?_, fun s w p hp => ?_⟩
  · exact State.csrAnswers_of_resolveCsr (State.resolveCsr_of_no_csr hnone s w)
  · exact State.csrAnswers_of_resolveCsr (State.resolveCsr_of_write_read_only hreadOnly s)
  · have hat : csrAt 0x615 = some .htimedeltah := by decide
    have hhas : s.hasCsr .htimedeltah = false := by rw [State.hasCsr, hx]; rfl
    exact State.csrAnswers_of_resolveCsr (State.resolveCsr_of_not_has hat hhas w)
  · obtain ⟨haddr, hwide, hwrite, hcls⟩ := machCsrAddrs_spec p hp
    exact State.csrAnswers_of_resolveCsr ((State.names_of_writable haddr hwide hwrite s w).resolve_machine hcls)

/-- Settles O44: TVM gates `hgatp` of the hypervisor CSRs and `satp` of the supervisor CSRs, VTVM `satp` at V = 1. -/
theorem tvmAndVtvmGateTheTranslationRegisters : Obligations.TvmAndVtvmGateTheTranslationRegisters := by
  unfold Obligations.TvmAndVtvmGateTheTranslationRegisters
  have hhgatp (s : State) (w : Bool) : s.Names 0x680 w .hgatp := State.names_of_writable (by decide) rfl (by decide) s w
  have hsatp (s : State) (w : Bool) : s.Names 0x180 w .satp := State.names_of_writable (by decide) rfl (by decide) s w
  refine ⟨fun s w hv => ?_, fun s w hv => ?_⟩
  · have hg := (hhgatp s w).resolve_hypervisor (.inl rfl)
    have hs := (hsatp s w).resolve_sup_host rfl hv
    refine ⟨fun hp => ?_, fun hp => ?_, fun hp => ⟨?_, ?_⟩, fun hp => ⟨?_, ?_⟩⟩ <;>
      apply State.csrAnswers_of_resolveCsr
    · rw [hg]; cases htvm : s.mstatusTvm <;> simp [hv, hp, tvmBars, excIllegal]
    · rw [hs]; cases htvm : s.mstatusTvm <;> simp [hp, tvmBars, excIllegal]
    · rw [hg]; simp [hv, hp]
    · rw [hs]; simp [hp]
    · rw [hg]; simp [hv, hp, excIllegal]
    · rw [hs, if_pos hp]; rfl
  · have hg := (hhgatp s w).resolve_hypervisor (.inl rfl)
    have hs := (hsatp s w).resolve_sup_guest rfl hv
    refine ⟨?_, fun hp => ?_, fun hp => ?_⟩ <;> apply State.csrAnswers_of_resolveCsr
    · rw [hg, if_pos hv]; rfl
    · rw [hs]; cases hvtvm : s.vtvm <;> simp [hp, excVirtual]
    · rw [hs, if_pos hp]; rfl

end Sys2Proof.Machine

/-! ## Access, part 3: the six CSR instructions (40_csr_access.md R210, R221 to R226, R237) -/

namespace Sys2Proof.Machine

/-- A permitted access that wants no write completes: rd gets the old value. -/
theorem State.exec_csr_read {s : State} {i : Instr} {a : CsrAddr} {c : Csr} (hi : csrOperand i = some (a, false))
    (hc : s.resolveCsr a false = .ok c) :
    exec i s = .next ((s.setX (csrDest i) (fit s.xlen (s.readCsr c))).advance) :=
  State.csrAnswers_of_resolveCsr hc i hi

/-- A permitted access whose write is not refused completes: the CSR is written, and rd gets the old value. -/
theorem State.exec_csr_write {s u : State} {i : Instr} {a : CsrAddr} {c : Csr} (hi : csrOperand i = some (a, true))
    (hc : s.resolveCsr a true = .ok c) (hw : s.writeCsr c (s.csrNewValue (s.readCsr c) i) = .ok u) :
    exec i s = .next ((u.setX (csrDest i) (fit s.xlen (s.readCsr c))).advance) := by
  have hexec := State.csrAnswers_of_resolveCsr hc i hi
  rwa [if_pos rfl, hw] at hexec

/-- What a completed read leaves. -/
theorem State.read_completed (s : State) (rd : Reg) (old : Word) :
    let t := (s.setX rd (fit s.xlen old)).advance
    t.x rd = (if rd = 0 then 0 else fit s.xlen old) ∧ (∀ r : Reg, r ≠ rd → t.x r = s.x r) ∧
      t.pc = fit s.xlen (s.pc + 4) ∧ SameControl s t ∧ SameMemory s t := by
  refine ⟨?_, fun r hr => s.x_setX_ne rd r _ hr, rfl, ⟨rfl, rfl, rfl, rfl, rfl, rfl, rfl, rfl, rfl, rfl⟩,
    ⟨rfl, rfl, rfl⟩⟩
  show (s.setX rd (fit s.xlen old)).x rd = _
  by_cases h0 : rd = 0
  · subst h0; rfl
  · rw [State.x_setX_self _ _ _ h0, if_neg h0, fit_fit]

/-- Settles O48: each form by the write it wants and the value it computes. -/
theorem csrInstructionsCompleteWithTheirNewValue : Obligations.CsrInstructionsCompleteWithTheirNewValue := by
  unfold Obligations.CsrInstructionsCompleteWithTheirNewValue
  refine ⟨fun s rd a c hc => ?_, fun s u rd rs1 m a c v hc hw => ?_⟩
  · obtain ⟨hrd, hother, hpc, hcontrol, hmemory⟩ := s.read_completed rd (s.readCsr c)
    exact ⟨_, hrd, hother, hpc, hcontrol, hmemory, State.exec_csr_read rfl hc, State.exec_csr_read rfl hc,
      State.exec_csr_read rfl hc, State.exec_csr_read rfl hc⟩
  · have hcompletes (i : Instr) (hi : csrOperand i = some (a, true)) (hv : v = s.csrNewValue (s.readCsr c) i) :
        exec i s = .next ((u.setX (csrDest i) (fit s.xlen (s.readCsr c))).advance) :=
      State.exec_csr_write hi hc (hv ▸ hw)
    have hwants {r : BitVec 5} (hr : r ≠ 0) : some (a, r != 0) = some (a, true) := by rw [bne_iff_ne.mpr hr]
    exact ⟨fun hv => hcompletes (.csrrw rd a rs1) rfl hv, fun hr hv => hcompletes (.csrrs rd a rs1) (hwants hr) hv,
      fun hr hv => hcompletes (.csrrc rd a rs1) (hwants hr) hv, fun hv => hcompletes (.csrrwi rd a m) rfl hv,
      fun hm hv => hcompletes (.csrrsi rd a m) (hwants hm) hv,
      fun hm hv => hcompletes (.csrrci rd a m) (hwants hm) hv⟩

/-- A barred access is an exception 2 or 22, and the next state is the entry of its trap. -/
theorem State.exec_csr_barred {s : State} {i : Instr} {a : CsrAddr} {w : Bool} {e : Nat}
    (hi : csrOperand i = some (a, w)) (he : s.resolveCsr a w = .error e) :
    (e = 2 ∨ e = 22) ∧ ∃ d : Bool, exec i s = .next (s.enter (s.exceptionTarget e)
      { isInt := false, code := e, tval := if d then (encode i).setWidth 64 else 0, tvalIsGva := false } s.pc) :=
  ⟨State.resolveCsr_error he, Config.drawTval s.tick, State.csrAnswers_of_resolveCsr he i hi⟩

/-- Settles O50: the two forms of each kind want the same access. -/
theorem barredCsrInstructionOnlyTraps : Obligations.BarredCsrInstructionOnlyTraps := by
  unfold Obligations.BarredCsrInstructionOnlyTraps
  intro s rd rs1 a m e
  refine ⟨fun he i hi => ?_, fun he i hi => ?_, fun he i hi => ?_⟩
  all_goals
    simp only [List.mem_cons, List.not_mem_nil, or_false] at hi
    rcases hi with rfl | rfl
    all_goals exact State.exec_csr_barred rfl he

end Sys2Proof.Machine

/-! ## Access, part 4: counters (40_csr_access.md R230 to R234, 10_state.md R89 to R91) -/

namespace Sys2Proof.Machine

/-! ### Addresses (30_encoding.md R185) -/

theorem csrAt_counter (n : BitVec 5) : csrAt (0b1100000#7 ++ n) = some (.counter n) := by
  have hhigh : (0b1100000#7 ++ n).extractLsb' 5 7 = 0b1100000 := BitVec.extractLsb'_append_eq_left
  have hlow : (0b1100000#7 ++ n).extractLsb' 0 5 = n := BitVec.extractLsb'_append_eq_right
  rw [csrAt, if_pos hhigh, hlow]

theorem csrAt_counterh (n : BitVec 5) : csrAt (0b1100100#7 ++ n) = some (.counterh n) := by
  have hhigh : (0b1100100#7 ++ n).extractLsb' 5 7 = 0b1100100 := BitVec.extractLsb'_append_eq_left
  have hlow : (0b1100100#7 ++ n).extractLsb' 0 5 = n := BitVec.extractLsb'_append_eq_right
  rw [csrAt, hhigh, if_neg (by decide), if_pos rfl, hlow]

/-! ### The enable registers (R230, R231) -/

/-- What the check of counter n answers, in the order of the modes. -/
theorem State.counterBar_elim (s : State) (n : BitVec 5) (c : Csr) :
    (s.counterBar n).elim (.ok c) .error =
      if s.v then
        (if s.mach.mcounteren.getLsbD n.toNat = false then .error 2
         else if s.hyp.hcounteren.getLsbD n.toNat = false then .error 22
         else if s.priv = .u ∧ s.sup.scounteren.getLsbD n.toNat = false then .error 22
         else .ok c)
       else if s.priv = .m then .ok c
       else if s.mach.mcounteren.getLsbD n.toNat = false then .error 2
       else if s.priv = .u ∧ s.sup.scounteren.getLsbD n.toNat = false then .error 2
       else (.ok c : Except Nat Csr) := by
  unfold State.counterBar
  generalize s.mach.mcounteren.getLsbD n.toNat = mEn, s.hyp.hcounteren.getLsbD n.toNat = hEn,
    s.sup.scounteren.getLsbD n.toNat = sEn, s.v = v, s.priv = p
  cases v with
  | true =>
    cases mEn with
    | false => rfl
    | true =>
      cases hEn with
      | false => rfl
      | true => cases p <;> cases sEn <;> rfl
  | false =>
    cases p with
    | m => rfl
    | s => cases mEn <;> rfl
    | u => cases mEn <;> cases sEn <;> rfl

/-- Settles O46: the address names the counter or its high half, and the class of both is the counter's check. -/
theorem counterReadsAreGatedByTheEnableRegisters : Obligations.CounterReadsAreGatedByTheEnableRegisters := by
  unfold Obligations.CounterReadsAreGatedByTheEnableRegisters
  intro s n a c hac
  have hnames : s.Names a false c ∧ c.cls = .counter n := by
    rcases hac with ⟨rfl, rfl⟩ | ⟨hx, rfl, rfl⟩
    · exact ⟨State.names_of_read (csrAt_counter n) rfl, rfl⟩
    · exact ⟨State.names_of_read (csrAt_counterh n) (by rw [State.hasCsr, hx]; rfl), rfl⟩
  obtain ⟨hnames, hcls⟩ := hnames
  exact State.csrAnswers_of_resolveCsr ((hnames.resolve_counter hcls).trans (s.counterBar_elim n c))

/-! ### Values (R232 to R234) -/

/-- `time` as read: the 64-bit sum with the delta at V = 1. -/
theorem State.toNat_counterValue_time (s : State) :
    (s.counterValue 1).toNat = (s.counters[1].toNat + (if s.v then s.hyp.htimedelta.toNat else 0)) % 2 ^ 64 := by
  show (if (1 : BitVec 5) = 1 ∧ s.v = true then s.counters[1] + s.hyp.htimedelta else s.counters[1]).toNat = _
  cases s.v with
  | true => exact BitVec.toNat_add _ _
  | false => exact (Nat.mod_eq_of_lt s.counters[1].isLt).symm

/-- Every other counter is read as it is. -/
theorem State.counterValue_of_ne (s : State) {n : BitVec 5} (h : n ≠ 1) : s.counterValue n = s.counters[n.toNat] :=
  if_neg fun ⟨hn, _⟩ => h hn

/-- CSRRS with x0 reads: rd gets the value of the register reached, and nothing else but the pc changes. -/
theorem State.exec_csrrs_read {s : State} {a : CsrAddr} {c : Csr} (h : s.resolveCsr a false = .ok c) (rd : Reg) :
    exec (.csrrs rd a 0) s = .next ((s.setX rd (fit s.xlen (s.readCsr c))).advance) :=
  State.exec_csr_read (i := .csrrs rd a 0) rfl h

/-! ### The delta and its halves (10_state.md R89 to R91) -/

theorem bit_lowHalf (i : Nat) : bit 0xFFFFFFFF i = decide (i < 32) := by
  have hmask := bit_fieldMask 0 32 i (by omega)
  rwa [Nat.zero_add, decide_eq_true (Nat.zero_le i), Bool.true_and] at hmask

theorem bit_highHalf (i : Nat) : bit 0xFFFFFFFF00000000 i = (decide (32 ≤ i) && decide (i < 64)) :=
  bit_fieldMask 32 32 i (by omega)

theorem bit_shiftRight_half (w : Word) (i : Nat) : bit (w >>> 32) i = bit w (i + 32) := by
  simp [bit, Nat.add_comm]

theorem bit_shiftLeft_half (w : Word) {i : Nat} (hi : i + 32 < 64) : bit (w <<< 32) (i + 32) = bit w i := by
  have hshift : ¬ i + 32 < 32 := by omega
  rw [bit, BitVec.getLsbD_shiftLeft, decide_eq_true hi, decide_eq_false hshift, Nat.add_sub_cancel]
  rfl

/-- The upper half of a register fits every width. -/
theorem fit_shiftRight_half (x : Xlen) (w : Word) : fit x (w >>> 32) = w >>> 32 := by
  refine word_eq_of_bits fun i _ => ?_
  rw [bit_fit, bit_shiftRight_half]
  by_cases hi : i < 32
  · rw [decide_eq_true (Nat.lt_of_lt_of_le hi (Xlen.thirtyTwo_le_bits x)), Bool.and_true]
  · rw [bit_of_ge _ (by omega), Bool.false_and]

theorem ofNat_div_half (w : Word) : BitVec.ofNat 64 (w.toNat / 2 ^ 32) = w >>> 32 := by
  refine BitVec.eq_of_toNat_eq ?_
  rw [BitVec.toNat_ofNat, BitVec.toNat_ushiftRight, Nat.shiftRight_eq_div_pow]
  exact Nat.mod_eq_of_lt (Nat.lt_of_le_of_lt (Nat.div_le_self _ _) w.isLt)

theorem fit_merge_lowHalf (w old : Word) : fit .x32 (merge 0xFFFFFFFF w old) = fit .x32 w := by
  refine word_eq_of_bits fun i _ => ?_
  rw [bit_fit, bit_fit]
  by_cases hi : i < Xlen.x32.bits
  · have hmask : bit 0xFFFFFFFF i = true := (bit_lowHalf i).trans (decide_eq_true hi)
    rw [bit_merge, if_pos hmask]
  · rw [decide_eq_false hi, Bool.and_false, Bool.and_false]

theorem shiftRight_merge_lowHalf (w old : Word) : merge 0xFFFFFFFF w old >>> 32 = old >>> 32 := by
  refine word_eq_of_bits fun i _ => ?_
  have hmask : bit 0xFFFFFFFF (i + 32) = false := (bit_lowHalf _).trans (decide_eq_false (by omega))
  rw [bit_shiftRight_half, bit_shiftRight_half, bit_merge, hmask, if_neg Bool.false_ne_true]

theorem shiftRight_merge_highHalf (w old : Word) : merge 0xFFFFFFFF00000000 (w <<< 32) old >>> 32 = fit .x32 w := by
  refine word_eq_of_bits fun i _ => ?_
  rw [bit_shiftRight_half, bit_fit]
  by_cases hi : i < Xlen.x32.bits
  · have htop : i + 32 < 64 := Nat.add_lt_add_right hi 32
    have hmask : bit 0xFFFFFFFF00000000 (i + 32) = true := by
      rw [bit_highHalf, decide_eq_true (Nat.le_add_left 32 i), decide_eq_true htop, Bool.and_true]
    rw [bit_merge, if_pos hmask, bit_shiftLeft_half w htop, decide_eq_true hi, Bool.and_true]
  · have htop : 64 ≤ i + 32 := Nat.add_le_add_right (Nat.le_of_not_lt hi) 32
    rw [bit_of_ge _ htop, decide_eq_false hi, Bool.and_false]

theorem fit_merge_highHalf (w old : Word) : fit .x32 (merge 0xFFFFFFFF00000000 (w <<< 32) old) = fit .x32 old := by
  refine word_eq_of_bits fun i _ => ?_
  rw [bit_fit, bit_fit]
  by_cases hi : i < Xlen.x32.bits
  · have hbelow : ¬ 32 ≤ i := Nat.not_le_of_lt hi
    have hmask : bit 0xFFFFFFFF00000000 i = false := by rw [bit_highHalf, decide_eq_false hbelow, Bool.false_and]
    rw [bit_merge, hmask, if_neg Bool.false_ne_true]
  · rw [decide_eq_false hi, Bool.and_false, Bool.and_false]

/-- At HSXLEN = 64 `htimedelta` is the whole delta. -/
theorem State.write_htimedelta_wide {s : State} (hx : s.cfg.hsxlen = .x64) (w : Word) :
    ∃ t, s.writeCsr .htimedelta w = .ok t ∧ t.hyp.htimedelta = w ∧ t.readCsr .htimedelta = w := by
  refine ⟨_, rfl, ?_, ?_⟩
  · rw [State.setHyp_hyp, hx]
  · show fit s.cfg.hsxlen _ = w
    rw [State.setHyp_hyp, hx]
    rfl

/-- At HSXLEN = 32 `htimedelta` is the low half. -/
theorem State.write_htimedelta_narrow {s : State} (hx : s.cfg.hsxlen = .x32) (w : Word) :
    ∃ t, s.writeCsr .htimedelta w = .ok t ∧ t.readCsr .htimedelta = fit .x32 w ∧
      t.readCsr .htimedeltah = s.readCsr .htimedeltah := by
  refine ⟨s.setHyp { s.hyp with htimedelta := merge 0xFFFFFFFF w s.hyp.htimedelta }, ?_, ?_, ?_⟩
  · rw [State.writeCsr, hx]
  · show fit s.cfg.hsxlen _ = _
    rw [hx]
    exact fit_merge_lowHalf _ _
  · exact shiftRight_merge_lowHalf _ _

/-- At HSXLEN = 32 `htimedeltah` is the high half. -/
theorem State.write_htimedeltah_narrow {s : State} (hx : s.cfg.hsxlen = .x32) (w : Word) :
    ∃ t, s.writeCsr .htimedeltah w = .ok t ∧ t.readCsr .htimedeltah = fit .x32 w ∧
      t.readCsr .htimedelta = s.readCsr .htimedelta := by
  refine ⟨_, rfl, shiftRight_merge_highHalf _ _, ?_⟩
  show fit s.cfg.hsxlen _ = fit s.cfg.hsxlen _
  rw [hx]
  exact fit_merge_highHalf _ _

/-- Settles O47: each read by the counter's value at the width of the mode, each write by the half it replaces. -/
theorem timeReadAtV1IsOffsetByHtimedelta : Obligations.TimeReadAtV1IsOffsetByHtimedelta := by
  unfold Obligations.TimeReadAtV1IsOffsetByHtimedelta
  refine ⟨fun s rd h => ?_, fun s rd _ h => ?_, fun s rd n hn h => ?_,
    fun s w => ⟨fun hx => s.write_htimedelta_wide hx w, fun hx => ⟨s.write_htimedelta_narrow hx w,
      s.write_htimedeltah_narrow hx w⟩⟩⟩
  · have hread : s.readCsr (.counter 1) = fit s.xlen (s.counterValue 1) := rfl
    rw [State.exec_csrrs_read h, hread, fit_fit, ← s.toNat_counterValue_time, BitVec.ofNat_toNat, BitVec.setWidth_eq]
  · have hread : s.readCsr (.counterh 1) = s.counterValue 1 >>> 32 := rfl
    rw [State.exec_csrrs_read h, hread, fit_shiftRight_half, ← s.toNat_counterValue_time, ofNat_div_half]
  · have hread : s.readCsr (.counter n) = fit s.xlen (s.counterValue n) := rfl
    rw [State.exec_csrrs_read h, hread, fit_fit, s.counterValue_of_ne hn]

end Sys2Proof.Machine

/-! ## Virtual-machine loads and stores, part 1: their shapes and the bar (41_vm_load_store.md R250, R251) -/

namespace Sys2Proof.Machine

/-! ### Shapes -/

/-- A virtual-machine load or store of kind `k` and `n` bytes at the address in `rs1`. -/
def IsVmAccess (i : Instr) (k : AccKind) (n : Nat) (rs1 : Reg) : Prop :=
  (∃ h, loadShape i = some h ∧ k = h.kind ∧ n = h.bytes ∧ rs1 = h.rs1) ∨
    (∃ h, storeShape i = some h ∧ k = .store ∧ n = h.bytes ∧ rs1 = h.rs1)

theorem IsVmAccess.of_loadShape {i : Instr} {h : LoadShape} (hs : loadShape i = some h) :
    IsVmAccess i h.kind h.bytes h.rs1 := .inl ⟨h, hs, rfl, rfl, rfl⟩

theorem IsVmAccess.of_storeShape {i : Instr} {h : StoreShape} (hs : storeShape i = some h) :
    IsVmAccess i .store h.bytes h.rs1 := .inr ⟨h, hs, rfl, rfl, rfl⟩

theorem loadShape_kind {i : Instr} {h : LoadShape} (hs : loadShape i = some h) : h.kind = .load ∨ h.kind = .loadX := by
  cases i <;> simp only [loadShape, Option.some.injEq, reduceCtorEq] at hs <;> subst hs <;> simp

theorem loadShape_bytes {i : Instr} {h : LoadShape} (hs : loadShape i = some h) : h.bytes ∈ [1, 2, 4, 8] := by
  cases i <;> simp only [loadShape, Option.some.injEq, reduceCtorEq] at hs <;> subst hs <;> simp

theorem storeShape_bytes {i : Instr} {h : StoreShape} (hs : storeShape i = some h) : h.bytes ∈ [1, 2, 4, 8] := by
  cases i <;> simp only [storeShape, Option.some.injEq, reduceCtorEq] at hs <;> subst hs <;> simp

/-- The width of an access divides a page. -/
theorem IsVmAccess.bytes_dvd {i : Instr} {k : AccKind} {n : Nat} {rs1 : Reg} (h : IsVmAccess i k n rs1) : n ∣ 4096 := by
  have hdvd : ∀ m ∈ [1, 2, 4, 8], m ∣ 4096 := by decide
  rcases h with ⟨h, hs, -, rfl, -⟩ | ⟨h, hs, -, rfl, -⟩
  · exact hdvd _ (loadShape_bytes hs)
  · exact hdvd _ (storeShape_bytes hs)

theorem IsVmAccess.kind_ne_fetch {i : Instr} {k : AccKind} {n : Nat} {rs1 : Reg} (h : IsVmAccess i k n rs1) :
    k ≠ .fetch := by
  rcases h with ⟨h, hs, rfl, -, -⟩ | ⟨h, hs, rfl, -, -⟩
  · rcases loadShape_kind hs with hk | hk <;> rw [hk] <;> decide
  · decide

/-- Both kinds of load report the codes of a load (R253). -/
theorem AccFault.code_loadShape {i : Instr} {h : LoadShape} (hs : loadShape i = some h) (f : AccFault) :
    f.code h.kind = f.code .load := by
  rcases loadShape_kind hs with hk | hk <;> rw [hk]
  cases f <;> rfl

/-! ### The bar -/

/-- A hart of 32 bits is that narrow in every mode. -/
theorem State.xlen_of_narrow {s : State} (hx : s.cfg.hsxlen = .x32) : s.xlen = .x32 := by
  have hvs : s.vsxlen = .x32 := by rw [State.vsxlen, hx]
  have hvu : s.vuxlen = .x32 := by rw [State.vuxlen, hvs]
  have hu : s.uxlen = .x32 := by rw [State.uxlen, hx]
  unfold State.xlen State.xlenOf
  split <;> assumption

/-- Nothing bars an access that mode and width may run. -/
theorem State.virtMemBar_of_mayRunVm {s : State} {i : Instr} (h : s.mayRunVm i) : s.virtMemBar i.rv64Only = none := by
  obtain ⟨hv, hu, hwide⟩ := h
  have hrv32 : ¬ (i.rv64Only = true ∧ s.cfg.hsxlen = .x32) := fun ⟨hr, hx⟩ => by
    simpa [hwide hr] using State.xlen_of_narrow hx
  have hnarrow : ¬ (i.rv64Only = true ∧ s.xlen = .x32) := fun ⟨hr, hx⟩ => by simpa [hx] using hwide hr
  have huser : ¬ (s.priv = .u ∧ s.hu = false) := fun ⟨hp, hhu⟩ => by simpa [hhu] using hu hp
  simp [State.virtMemBar, hrv32, hv, huser, hnarrow]

theorem State.virtMemBar_of_guest {s : State} {rv64Only : Bool} (hv : s.v = true)
    (hx : rv64Only = true → s.cfg.hsxlen = .x64) : s.virtMemBar rv64Only = some 22 := by
  have hrv32 : ¬ (rv64Only = true ∧ s.cfg.hsxlen = .x32) := fun ⟨hr, hn⟩ => by simpa [hn] using hx hr
  rw [State.virtMemBar, if_neg hrv32, if_pos hv]
  rfl

theorem State.virtMemBar_of_user {s : State} (rv64Only : Bool) (hv : s.v = false) (hp : s.priv = .u) (hu : s.hu = false) :
    s.virtMemBar rv64Only = some 2 := by
  simp [State.virtMemBar, hv, hp, hu, excIllegal]

theorem State.virtMemBar_of_narrow {s : State} (hv : s.v = false) (hx : s.xlen = .x32) : s.virtMemBar true = some 2 := by
  simp [State.virtMemBar, hv, hx, excIllegal]

/-- A barred access raises the exception of the bar. -/
theorem IsVmAccess.exec_barred {i : Instr} {k : AccKind} {n : Nat} {rs1 : Reg} {s : State} {code : Nat}
    (h : IsVmAccess i k n rs1) (hbar : s.virtMemBar i.rv64Only = some code) :
    exec i s = .next (s.raiseBarred code (encode i)) := by
  rcases h with ⟨h, hs, -⟩ | ⟨h, hs, -⟩
  · rw [exec_loadShape hs, State.virtLoad, hbar]
  · rw [exec_storeShape hs, State.virtStore, hbar]

/-- Settles O36: the bar asks the width of the hart, V, the mode with HU, and the width of the mode, in this order. -/
theorem vmInstructionsAreBarredByModeAndWidth : Obligations.VmInstructionsAreBarredByModeAndWidth := by
  unfold Obligations.VmInstructionsAreBarredByModeAndWidth
  intro s i hi
  obtain ⟨k, n, rs1, hvm⟩ : ∃ k n rs1, IsVmAccess i k n rs1 := by
    rcases hi with hs | hs
    · obtain ⟨h, hs⟩ := Option.ne_none_iff_exists'.mp hs
      exact ⟨_, _, _, .of_loadShape hs⟩
    · obtain ⟨h, hs⟩ := Option.ne_none_iff_exists'.mp hs
      exact ⟨_, _, _, .of_storeShape hs⟩
  exact ⟨fun hv hx => hvm.exec_barred (State.virtMemBar_of_guest hv hx),
    fun hv hp hu => hvm.exec_barred (State.virtMemBar_of_user _ hv hp hu),
    fun hv hr hx => hvm.exec_barred (hr ▸ State.virtMemBar_of_narrow hv hx)⟩

end Sys2Proof.Machine

/-! ## Virtual-machine loads and stores, part 2: an access that completes (41_vm_load_store.md R254, R272) -/

namespace Sys2Proof.Machine

/-! ### Frames -/

theorem Walked.xlen {s t : State} (h : Walked s t) : t.xlen = s.xlen := by
  obtain ⟨_, _, _, rfl, -⟩ := h
  rfl

theorem Walked.x {s t : State} (h : Walked s t) (r : Reg) : t.x r = s.x r := State.x_congr r h.regs h.xlen

theorem Walked.advance_pc {s t : State} (h : Walked s t) : t.advance.pc = fit s.xlen (s.pc + 4) := by
  rw [State.advance_pc, h.xlen, h.pc]

/-- A load's register write after a translation is no change of control. -/
theorem Walked.setX_advance_sameControl {s s' : State} (h : Walked s s') (r : Reg) (w : Word) :
    SameControl s (s'.setX r w).advance :=
  ⟨h.cfg, h.priv, h.v, h.hyp, h.vs, h.sup, h.mach, h.counters, h.plat, h.tick⟩

/-- Nor is a store's write of memory. -/
theorem Walked.memWrite_advance_sameControl {s s' : State} (h : Walked s s') (cells : List (Nat × Byte)) :
    SameControl s (s'.memWrite cells).advance :=
  ⟨h.cfg, h.priv, h.v, h.hyp, h.vs, h.sup, h.mach, h.counters, h.plat, h.tick⟩

/-- What a register written on the way to the next instruction reads as. -/
theorem State.x_setX_advance (s : State) (r : Reg) (w : Word) :
    (s.setX r w).advance.x r = if r = 0 then 0 else fit s.xlen w := by
  show (s.setX r w).x r = _
  by_cases h0 : r = 0
  · rw [h0, State.x_zero, if_pos rfl]
  · rw [State.x_setX_self _ _ _ h0, if_neg h0]

/-! ### Completion -/

/-- A load whose read succeeds writes the extended value. -/
theorem exec_load_of_vmemRead {s s' : State} {i : Instr} {h : LoadShape} {w : Word} (hs : loadShape i = some h)
    (hrun : s.mayRunVm i) (ha : s.misalignedFor (s.x h.rs1) h.bytes = false)
    (hr : s.vmemRead (s.x h.rs1) h.bytes (s.virtAccess h.kind) = .ok w s') :
    exec i s = .next ((s'.setX h.rd (extendLoaded h.signed h.bytes w)).advance) := by
  rw [exec_loadShape hs, State.virtLoad, State.virtMemBar_of_mayRunVm hrun]
  dsimp only
  rw [ha, if_neg Bool.false_ne_true, hr]

/-- A store whose bytes are located writes them there. -/
theorem exec_store_of_locate {s s' : State} {i : Instr} {h : StoreShape} {spas : List Nat} (hs : storeShape i = some h)
    (hrun : s.mayRunVm i) (ha : s.misalignedFor (s.x h.rs1) h.bytes = false)
    (hl : s.locate (s.x h.rs1) h.bytes (s.virtAccess .store) = .ok spas s') :
    exec i s = .next (s'.memWrite (spas.zip (bytesOfValue s.vmBigEndian h.bytes (s.x h.rs2)))).advance := by
  rw [exec_storeShape hs, State.virtStore, State.virtMemBar_of_mayRunVm hrun]
  dsimp only
  rw [ha, if_neg Bool.false_ne_true, State.vmemWrite, hl]
  rfl

/-- Settles O34: the register is the one change after what the translation changed. -/
theorem vmLoadCompletesAndKeepsEverythingElse : Obligations.VmLoadCompletesAndKeepsEverythingElse := by
  unfold Obligations.VmLoadCompletesAndKeepsEverythingElse
  intro s s' i h w hs hrun ha hr
  have hw : Walked s s' := by
    have hwalked := s.vmemRead_walked (s.x h.rs1) h.bytes (s.virtAccess h.kind)
    rwa [hr] at hwalked
  refine ⟨_, exec_load_of_vmemRead hs hrun ha hr, ?_, fun r hne => ?_, hw.advance_pc,
    hw.setX_advance_sameControl _ _, rfl, fun hAD => ⟨hw.mem hAD, hw.storedTo hAD⟩⟩
  · rw [State.x_setX_advance, hw.xlen]
  · exact (s'.x_setX_ne _ _ _ hne).trans (hw.x r)

/-- Bytes written at addresses leave every byte at another address. -/
theorem Memory.readByte_writeBytes_zip (m : Memory) (addrs : List Nat) (bs : List Byte) {a : Nat} (h : a ∉ addrs) :
    Memory.readByte (Memory.writeBytes m (addrs.zip bs)) a = Memory.readByte m a :=
  Memory.readByte_writeBytes_of_not_mem _ _ _ fun hmem =>
    let ⟨_, hcell, hfst⟩ := List.mem_map.mp hmem
    h (hfst ▸ (List.of_mem_zip hcell).1)

/-- Settles O35: the bytes written are the one change after what the translation changed. -/
theorem vmStoreCompletesAndKeepsEverythingElse : Obligations.VmStoreCompletesAndKeepsEverythingElse := by
  unfold Obligations.VmStoreCompletesAndKeepsEverythingElse
  intro s s' i h spas hs hrun ha hl
  have hw : Walked s s' := State.locate_ok_walked hl
  refine ⟨_, exec_store_of_locate hs hrun ha hl, hw.regs, hw.advance_pc, hw.memWrite_advance_sameControl _, rfl,
    fun a hout => Memory.readByte_writeBytes_zip _ _ _ hout, fun hAD a hout => ?_⟩
  rw [← hw.mem hAD]
  exact Memory.readByte_writeBytes_zip _ _ _ hout

end Sys2Proof.Machine

/-! ## Virtual-machine loads and stores, part 3: both stages Bare (41_vm_load_store.md R271) -/

namespace Sys2Proof.Machine

/-! ### Aligned accesses and the addresses they reach -/

theorem State.misalignedFor_of_aligned (s : State) {va : Word} {n : Nat} (h : va.toNat % n = 0) :
    s.misalignedFor va n = false := by simp [State.misalignedFor, h]

/-- An aligned access whose width divides a page is within one. -/
theorem within_page_of_aligned {a n : Nat} (hn : n ∣ 4096) (ha : a % n = 0) : n ≤ 4096 - a % 4096 := by
  have hoffset : n ∣ a % 4096 := (Nat.dvd_mod_iff hn).mpr (Nat.dvd_of_mod_eq_zero ha)
  have hlt : a % 4096 < 4096 := Nat.mod_lt _ (by decide)
  exact Nat.le_of_dvd (by omega) (Nat.dvd_sub hn hoffset)

/-- An access within one page is one portion. -/
theorem State.locate_within_page (s : State) {va : Word} {n : Nat} (acc : Access) (h : n ≤ 4096 - va.toNat % 4096) :
    s.locate va n acc = s.portion va n acc := if_pos h

/-- With `vsatp` Bare the VS-stage is the identity. -/
theorem State.vsStage_bare {s : State} (h : satpMode s.vsxlen s.vs.vsatp = 0) (gva : Nat) (acc : Access) :
    s.vsStage gva acc = .ok gva s := by rw [State.vsStage, h, schemeOf_bare]

theorem State.translate_bare {s : State} {acc : Access} {va : Word} (hb : s.bothStagesBare) (hacc : acc.effV = true)
    (hva : fit s.vsxlen va = va) : s.translate va acc = .ok va.toNat s := by
  obtain ⟨hvs, hg⟩ := hb
  rw [State.translate_two hacc, hva, State.vsStage_bare hvs, Answer.andThen, State.gStage_bare hg]

section
variable {s : State} {va : Word} {n : Nat} (k : AccKind) (hb : s.bothStagesBare) (hva : fit s.vsxlen va = va)
  (hn : n ∣ 4096) (ha : va.toNat % n = 0)
include hb hva hn ha

/-- With both stages Bare an aligned access reaches the bytes from its address, if they are memory. -/
theorem State.locate_bare (hmem : ∀ a ∈ addrsFrom va.toNat n, isMemory s.cfg a = true) :
    s.locate va n (s.virtAccess k) = .ok (addrsFrom va.toNat n) s := by
  have hphysical : s.physical va.toNat n = .ok (addrsFrom va.toNat n) s := if_pos (List.all_eq_true.mpr hmem)
  rw [State.locate_within_page _ _ (within_page_of_aligned hn ha), State.portion, State.translate_bare hb rfl hva,
    Answer.andThen, hphysical]

/-- It is an access fault with its address where a byte is no memory (20_memory.md R161, log 36). -/
theorem State.locate_bare_fault (hmem : ∃ a ∈ addrsFrom va.toNat n, isMemory s.cfg a = false) :
    s.locate va n (s.virtAccess k) = .fault .access va s := by
  have hphysical : s.physical va.toNat n = .fault .access s := by
    refine if_neg fun hall => ?_
    obtain ⟨a, hin, hno⟩ := hmem
    exact absurd (List.all_eq_true.mp hall a hin) (by rw [hno]; decide)
  rw [State.locate_within_page _ _ (within_page_of_aligned hn ha), State.portion, State.translate_bare hb rfl hva,
    Answer.andThen, hphysical]
end

/-- Settles O32: the read is at the address itself, and leaves the state as it was. -/
theorem vmLoadUnderBareStagesReadsMemory : Obligations.VmLoadUnderBareStagesReadsMemory := by
  unfold Obligations.VmLoadUnderBareStagesReadsMemory
  intro s i h hs hrun hb ha hva hmem
  have hl := State.locate_bare h.kind hb hva (IsVmAccess.of_loadShape hs).bytes_dvd ha hmem
  refine exec_load_of_vmemRead hs hrun (s.misalignedFor_of_aligned ha) ?_
  rw [State.vmemRead, hl]
  rfl

/-! ### Bytes stored in a row -/

theorem addrsFrom_length (a n : Nat) : (addrsFrom a n).length = n := by simp [addrsFrom]

theorem addrsFrom_nodup (a n : Nat) : (addrsFrom a n).Nodup :=
  List.Pairwise.map _ (fun _ _ hne heq => hne (Nat.add_left_cancel heq)) List.nodup_range

theorem getElem?_addrsFrom (a : Nat) {n k : Nat} (hk : k < n) : (addrsFrom a n)[k]? = some (a + k) := by
  simp [addrsFrom, hk]

/-- Byte k of a value stored from an address, in a byte order. -/
theorem Memory.readByte_writeBytes_value {m : Memory} (hm : Memory.wf m = true) (be : Bool) (a : Nat) {n k : Nat}
    (w : Word) (hk : k < n) :
    Memory.readByte (Memory.writeBytes m ((addrsFrom a n).zip (bytesOfValue be n w))) (a + k) =
      w.extractLsb' (8 * (if be then n - 1 - k else k)) 8 := by
  have hread := Memory.readBytes_writeBytes hm (addrsFrom a n) (bytesOfValue be n w) (addrsFrom_nodup a n)
    (by rw [addrsFrom_length, bytesOfValue_length])
  have hbyte := congrArg (·[k]?) hread
  simpa only [Memory.readBytes, List.getElem?_map, getElem?_addrsFrom a hk, getElem?_bytesOfValue be w hk, Option.map_some,
    Option.some.injEq] using hbyte

/-- The record of stores grows by the addresses stored to. -/
theorem State.mem_storedTo_memWrite (s : State) {addrs : List Nat} {bs : List Byte} (hl : addrs.length = bs.length)
    (a : Nat) : a ∈ (s.memWrite (addrs.zip bs)).storedTo ↔ a ∈ s.storedTo ∨ a ∈ addrs := by
  rw [State.memWrite_storedTo, List.map_fst_zip (Nat.le_of_eq hl), mem_noteStores, or_comm]

/-- Settles O33: the bytes go to the address itself, with no translation to change anything before them. -/
theorem vmStoreUnderBareStagesWritesMemory : Obligations.VmStoreUnderBareStagesWritesMemory := by
  unfold Obligations.VmStoreUnderBareStagesWritesMemory
  intro s i h hs hrun hb hcanon ha hva hmem
  have hl := State.locate_bare .store hb hva (IsVmAccess.of_storeShape hs).bytes_dvd ha hmem
  have hlength : (addrsFrom (s.x h.rs1).toNat h.bytes).length =
      (bytesOfValue s.vmBigEndian h.bytes (s.x h.rs2)).length := by rw [addrsFrom_length, bytesOfValue_length]
  exact ⟨_, exec_store_of_locate hs hrun (s.misalignedFor_of_aligned ha) hl,
    (Walked.refl s).memWrite_advance_sameControl _, rfl, rfl, rfl,
    fun k hk => Memory.readByte_writeBytes_value hcanon _ _ _ hk, fun a hout => Memory.readByte_writeBytes_zip _ _ _ hout,
    s.mem_storedTo_memWrite hlength⟩

end Sys2Proof.Machine

/-! ## Virtual-machine loads and stores, part 4: an access that faults (41_vm_load_store.md R254, R255) -/

namespace Sys2Proof.Machine

section
variable {i : Instr} {k : AccKind} {n : Nat} {rs1 : Reg} {s : State} (hvm : IsVmAccess i k n rs1) (hrun : s.mayRunVm i)
include hvm hrun

/-- A misaligned access raises its exception before any translation (R254 (2)). -/
theorem IsVmAccess.exec_misaligned (ha : s.misalignedFor (s.x rs1) n = true) :
    exec i s = .next (s.raise (virtMemTrap .misaligned (s.virtAccess k) (encode i) (s.x rs1) (s.x rs1))) := by
  rcases hvm with ⟨h, hs, rfl, rfl, rfl⟩ | ⟨h, hs, rfl, rfl, rfl⟩
  · rw [exec_loadShape hs, State.virtLoad, State.virtMemBar_of_mayRunVm hrun]
    exact if_pos ha
  · rw [exec_storeShape hs, State.virtStore, State.virtMemBar_of_mayRunVm hrun]
    exact if_pos ha

/-- An access that cannot be located raises its fault in the state the translation left (R254 (3)). -/
theorem IsVmAccess.exec_fault {f : AccFault} {a : Word} {s' : State} (ha : s.misalignedFor (s.x rs1) n = false)
    (hl : s.locate (s.x rs1) n (s.virtAccess k) = .fault f a s') :
    exec i s = .next (s'.raise (virtMemTrap f (s.virtAccess k) (encode i) (s.x rs1) a)) := by
  rcases hvm with ⟨h, hs, rfl, rfl, rfl⟩ | ⟨h, hs, rfl, rfl, rfl⟩
  · rw [exec_loadShape hs, State.virtLoad, State.virtMemBar_of_mayRunVm hrun]
    dsimp only
    rw [ha, if_neg Bool.false_ne_true, State.vmemRead, hl]
  · rw [exec_storeShape hs, State.virtStore, State.virtMemBar_of_mayRunVm hrun]
    dsimp only
    rw [ha, if_neg Bool.false_ne_true, State.vmemWrite, hl]

theorem IsVmAccess.exec_misaligned_trap (hok : s.cfg.misalignedOk = false) (ha : (s.x rs1).toNat % n ≠ 0) :
    ∃ tr, exec i s = .next (s.raise
      { isInt := false, code := AccFault.misaligned.code k, tval := s.x rs1, tvalIsGva := true, transformed := tr }) :=
  ⟨_, hvm.exec_misaligned hrun (by simp [State.misalignedFor, hok, ha])⟩

theorem IsVmAccess.exec_unmapped_trap (hb : s.bothStagesBare) (ha : (s.x rs1).toNat % n = 0)
    (hva : fit s.vsxlen (s.x rs1) = s.x rs1) (hmem : ∃ a ∈ addrsFrom (s.x rs1).toNat n, isMemory s.cfg a = false) :
    ∃ tr, exec i s = .next (s.raise
      { isInt := false, code := AccFault.access.code k, tval := s.x rs1, tvalIsGva := true, transformed := tr }) :=
  ⟨_, hvm.exec_fault hrun (s.misalignedFor_of_aligned ha) (State.locate_bare_fault k hb hva hvm.bytes_dvd ha hmem)⟩
end

/-- Settles O37: both kinds of trap, with the codes of a load and of a store. -/
theorem misalignedAndUnmappedVmAccessesTrap : Obligations.MisalignedAndUnmappedVmAccessesTrap := by
  unfold Obligations.MisalignedAndUnmappedVmAccessesTrap
  refine ⟨fun s i h hs hrun hok ha => ?_, fun s i h hs hrun hok ha => ?_,
    fun s i h hs hrun hb ha hva hmem => ?_, fun s i h hs hrun hb ha hva hmem => ?_⟩
  · have htrap := (IsVmAccess.of_loadShape hs).exec_misaligned_trap hrun hok ha
    rwa [AccFault.code_loadShape hs] at htrap
  · exact (IsVmAccess.of_storeShape hs).exec_misaligned_trap hrun hok ha
  · have htrap := (IsVmAccess.of_loadShape hs).exec_unmapped_trap hrun hb ha hva hmem
    rwa [AccFault.code_loadShape hs] at htrap
  · exact (IsVmAccess.of_storeShape hs).exec_unmapped_trap hrun hb ha hva hmem

/-! ### Where the trap goes and what it writes (60_exceptions.md R341, R352 to R355) -/

/-- A portion that faults reports its first address. -/
theorem State.portion_fault_addr {s t : State} {va a : Word} {n : Nat} {acc : Access} {f : AccFault}
    (h : s.portion va n acc = .fault f a t) : a = va := by
  unfold State.portion at h
  split at h <;> cases h
  rfl

theorem State.raise_to_machine {s : State} {t : Trap} (h : s.priv = .m ∨ bit s.medelegBits t.code = false) :
    s.raise t = s.enterMachine t s.pc := by
  rw [State.raise, State.exceptionTarget, if_pos h]
  rfl

theorem State.raise_to_hyper {s : State} {t : Trap} (hv : s.v = false) (hp : s.priv ≠ .m)
    (hd : bit s.medelegBits t.code = true) : s.raise t = s.enterHyper t s.pc := by
  have hdelegated : ¬ (s.priv = .m ∨ bit s.medelegBits t.code = false) := by simp [hp, hd]
  rw [State.raise, State.exceptionTarget, if_neg hdelegated, hv, if_neg (by simp)]
  rfl

/-- The cause word of an exception is its code. -/
theorem causeWord_exception (x : Xlen) (code : Nat) : causeWord x false code = BitVec.ofNat 64 code := by
  simp [causeWord]

/-- Only a guest-page fault leaves a nonzero `htval` (60_exceptions.md R355). -/
theorem State.htvalOfTrap_of_not_guestPage (s : State) {t : Trap} (h : isGuestPageCode t.code = false) :
    s.htvalOfTrap t = 0 := by
  unfold State.htvalOfTrap
  split
  · simp [h]
  · rfl

/-- Of the codes of guest-page faults a load reports 21 alone and a store 23. -/
theorem AccFault.isGuestPageCode_code {f : AccFault} {k : AccKind} (hk : k ≠ .fetch) (h21 : f.code k ≠ 21)
    (h23 : f.code k ≠ 23) : isGuestPageCode (f.code k) = false := by
  have h20 : f.code k ≠ 20 := by
    cases k with
    | fetch => exact absurd rfl hk
    | load | loadX | store => cases f <;> exact Nat.ne_of_beq_eq_false rfl
  simp [isGuestPageCode, h20, h21, h23]

/-- Settles O38: the state the translation left differs in nothing the trap reads, and at V = 0 the trap's target is
M-mode or HS-mode. -/
theorem vmAccessFaultLeavesSpv0AndGva1 : Obligations.VmAccessFaultLeavesSpv0AndGva1 := by
  unfold Obligations.VmAccessFaultLeavesSpv0AndGva1
  intro s s' i k n rs1 f a hvm hrun ha hl
  have hvm : IsVmAccess i k n rs1 := hvm
  have hw : Walked s s' := State.locate_fault_walked hl
  have hv : s'.v = false := hw.v.trans hrun.1
  have hdeleg : s'.medelegBits = s.medelegBits := by rw [State.medelegBits, State.medelegBits, hw.mach]
  refine ⟨_, hvm.exec_fault hrun ha hl, (s'.raise_regs _).trans hw.regs, s'.raise_mem _, ?_, fun hpage => ?_,
    fun hm => ?_, fun hp hd => ?_⟩
  · rw [State.raise, State.enter_v, hv, Bool.false_and]
  · rw [State.locate_within_page _ _ (by omega)] at hl
    exact State.portion_fault_addr hl
  · rw [← hw.priv, ← hdeleg] at hm
    rw [State.raise_to_machine hm, ← hw.cfg]
    refine ⟨rfl, causeWord_exception _ _, rfl, ?_, ?_⟩
    · exact (s'.bit_mstatusOfEntry _ 39).trans hv
    · exact s'.bit_mstatusOfEntry _ 38
  · rw [← hw.priv] at hp
    rw [← hdeleg] at hd
    rw [State.raise_to_hyper hv hp hd, ← hw.cfg, ← hw.pc]
    refine ⟨rfl, causeWord_exception _ _, rfl, rfl, ?_, ?_, ?_, fun h21 h23 => ?_⟩
    · exact (s'.bit_hstatusOfEntry _ 7).trans hv
    · exact s'.bit_hstatusOfEntry _ 6
    · have hspvp := s'.bit_hstatusOfEntry (virtMemTrap f (s.virtAccess k) (encode i) (s.x rs1) a) 8
      rw [hv] at hspvp
      exact hspvp.trans (by rw [hw.hyp]; rfl)
    · exact s'.htvalOfTrap_of_not_guestPage (AccFault.isGuestPageCode_code hvm.kind_ne_fetch h21 h23)

end Sys2Proof.Machine

/-! ## Privileged, part 1: what changes the virtualization mode (42_privileged.md R284) -/

namespace Sys2Proof.Machine

/-- Where a trap out of the guest leaves the hart: in HS-mode with SPV set, or in M-mode with MPV set. -/
def State.trappedFromGuest (s : State) : Prop := (s.priv = .s ∧ s.spv = true) ∨ (s.priv = .m ∧ s.mstatusMpv = true)

/-- A trap taken at V = 1 that leaves the guest records where it came from. -/
theorem State.enter_trappedFromGuest {s : State} {g : Target} {p : Trap} {epc : Word} (hv : s.v = true)
    (hleft : (s.enter g p epc).v = false) : (s.enter g p epc).trappedFromGuest := by
  cases g with
  | machine => exact .inr ⟨rfl, (s.bit_mstatusOfEntry p 39).trans hv⟩
  | hyper => exact .inl ⟨rfl, (s.bit_hstatusOfEntry p 7).trans hv⟩
  | guest => exact absurd (hv.symm.trans hleft) (by decide)

/-- The two returns that can set V, and what decides it: SPV for SRET at V = 0, MPV for MRET. -/
def State.ReturnSetsV (s : State) (i : Instr) (v : Bool) : Prop :=
  (i = .sret ∧ s.v = false ∧ v = s.spv) ∨ (i = .mret ∧ s.priv = .m ∧ (v = true → s.mstatusMpv = true))

/-- An instruction keeps V, takes an exception, or is one of the two returns. -/
theorem Effect.v_cases {i : Instr} {s t : State} (h : Effect i s t) :
    t.v = s.v ∨ (∃ s' p, Walked s s' ∧ t = s'.raise p) ∨ s.ReturnSetsV i t.v := by
  cases h with
  | trapped s' p hw _ _ => exact .inr (.inl ⟨s', p, hw, rfl⟩)
  | csrRead | fenced | moved | returnedGuest => exact .inl rfl
  | csrWritten s' a c w rd z _ _ _ hframe => exact .inl hframe.v
  | loaded s' rd w hw => exact .inl hw.v
  | stored s' cells hw => exact .inl hw.v
  | returnedHyper hi hv _ => exact .inr (.inr (.inl ⟨hi, hv, rfl⟩))
  | returnedMachine hi hm =>
    refine .inr (.inr (.inr ⟨hi, hm, fun hv => ?_⟩))
    rw [State.returnMachine_v, Bool.and_eq_true] at hv
    exact hv.2

/-- A step keeps V, takes a trap, or runs one of the two returns. -/
theorem step_v_cases {s t : State} (h : step s = .next t) :
    t.v = s.v ∨ (∃ s' g p epc, Walked s s' ∧ t = (s'.enter g p epc).platformStep) ∨
      (s.interrupt = none ∧ ∃ w s' i, s.fetch = .word w s' ∧ decode w = .ok i ∧ s.ReturnSetsV i t.v) := by
  obtain ⟨u, rfl, ⟨g, c, -, rfl⟩ | ⟨p, s', -, -, hw, rfl⟩ | ⟨w, s', i, hint, hf, hw, hd, he⟩ | ⟨w, s', -, -, hw, rfl⟩⟩ :=
    step_cases h
  · exact .inr (.inl ⟨s, g, _, _, Walked.refl s, rfl⟩)
  · exact .inr (.inl ⟨s', _, p, _, hw, rfl⟩)
  · rcases (exec_effect he).v_cases with hv | ⟨s'', p, hw', rfl⟩ | hret
    · exact .inl (hv.trans hw.v)
    · exact .inr (.inl ⟨s'', _, p, _, hw.trans hw', rfl⟩)
    · refine .inr (.inr ⟨hint, w, s', i, hf, hd, ?_⟩)
      unfold State.ReturnSetsV State.spv State.mstatusMpv at hret ⊢
      rwa [hw.v, hw.hyp, hw.priv, hw.mach] at hret
  · exact .inr (.inl ⟨s', _, _, _, hw, rfl⟩)

/-- SRET at V = 0 that is not barred. -/
theorem exec_sret_host {s : State} (hv : s.v = false) (hbar : s.sretBar = none) : exec .sret s = .next s.returnHyper := by
  show s.unlessBarred .sret s.sretBar _ = _
  rw [hbar, hv]
  rfl

/-- SRET at V = 1 that is not barred. -/
theorem exec_sret_guest {s : State} (hv : s.v = true) (hbar : s.sretBar = none) : exec .sret s = .next s.returnGuest := by
  show s.unlessBarred .sret s.sretBar _ = _
  rw [hbar, hv]
  rfl

/-- Settles O18: of the three things a step can do to V, a return alone sets it, and at V = 1 below M-mode a trap alone
clears it. -/
theorem onlyReturnsEnterTheGuestAndOnlyTrapsLeaveIt : Obligations.OnlyReturnsEnterTheGuestAndOnlyTrapsLeaveIt := by
  unfold Obligations.OnlyReturnsEnterTheGuestAndOnlyTrapsLeaveIt
  refine ⟨fun s t hstep hv htv => ?entered, fun s t hstep hv htv hm => ?left, fun s hv hbar => ?stays⟩
  case entered =>
    rcases step_v_cases hstep with hsame | ⟨s', g, p, epc, hw, rfl⟩ | ⟨hint, w, s', i, hf, hd, hret⟩
    · exact absurd (hv.symm.trans (hsame.symm.trans htv)) (by decide)
    · rw [State.platformStep_v, State.enter_v, hw.v, hv] at htv
      cases htv
    · refine ⟨hint, w, s', hf, ?_⟩
      rcases hret with ⟨rfl, -, hspv⟩ | ⟨rfl, hm, hmpv⟩
      · exact .inl ⟨hd, hspv.symm.trans htv⟩
      · exact .inr ⟨hd, hmpv htv, hm⟩
  case left =>
    rcases step_v_cases hstep with hsame | ⟨s', g, p, epc, hw, rfl⟩ | ⟨-, -, -, -, -, -, ⟨-, hv0, -⟩ | ⟨-, hm', -⟩⟩
    · exact absurd (hv.symm.trans (hsame.symm.trans htv)) (by decide)
    · exact State.enter_trappedFromGuest (hw.v.trans hv) htv
    · exact absurd (hv.symm.trans hv0) (by decide)
    · exact absurd hm' hm
  case stays => exact ⟨s.returnGuest, exec_sret_guest hv hbar, hv⟩

end Sys2Proof.Machine

/-! ## Privileged, part 2: which instruction is barred where (42_privileged.md R283, R291, R292, R306) -/

namespace Sys2Proof.Machine

/-- The exception that bars one of the two returns and the three fences in this mode, if one does. -/
def State.privilegedBar (s : State) : Instr → Option Nat
  | .sret => s.sretBar
  | .mret => if s.priv = .m then none else some excIllegal
  | .sfenceVma _ _ => s.sfenceBar
  | .hfenceVvma _ _ => if s.v then some excVirtual else if s.priv = .u then some excIllegal else none
  | .hfenceGvma _ _ =>
    if s.v then some excVirtual else if s.priv = .u then some excIllegal
    else if s.priv = .s ∧ s.mstatusTvm = true then some excIllegal else none
  | _ => none

theorem State.unlessBarred_of_some {s : State} {i : Instr} {bar : Option Nat} {c : Nat} (h : bar = some c) (e : State) :
    s.unlessBarred i bar e = .next (s.raiseBarred c (encode i)) := by
  rw [h]
  rfl

/-- A barred return or fence raises its exception. -/
theorem exec_barred {s : State} {i : Instr} {c : Nat} (h : s.privilegedBar i = some c) :
    exec i s = .next (s.raiseBarred c (encode i)) := by
  cases i with
  | sret | mret | sfenceVma | hfenceVvma | hfenceGvma => exact State.unlessBarred_of_some h _
  | _ => cases h

section
variable {s : State} (rs1 rs2 : Reg)

/-- In U-mode all five are illegal. -/
theorem State.privilegedBar_user (hv : s.v = false) (hp : s.priv = .u) {i : Instr}
    (hi : i ∈ [Instr.sret, .mret, .sfenceVma rs1 rs2, .hfenceVvma rs1 rs2, .hfenceGvma rs1 rs2]) :
    s.privilegedBar i = some excIllegal := by
  simp only [List.mem_cons, List.not_mem_nil, or_false] at hi
  rcases hi with rfl | rfl | rfl | rfl | rfl <;> simp [State.privilegedBar, State.sretBar, State.sfenceBar, hv, hp]

/-- In VU-mode SRET and SFENCE.VMA are virtual instructions. -/
theorem State.privilegedBar_guestUser (hv : s.v = true) (hp : s.priv = .u) {i : Instr}
    (hi : i ∈ [Instr.sret, .sfenceVma rs1 rs2]) : s.privilegedBar i = some excVirtual := by
  simp only [List.mem_cons, List.not_mem_nil, or_false] at hi
  rcases hi with rfl | rfl <;> simp [State.privilegedBar, State.sretBar, State.sfenceBar, hv, hp]

/-- At V = 1 the hypervisor fences are virtual instructions. -/
theorem State.privilegedBar_guest (hv : s.v = true) {i : Instr}
    (hi : i ∈ [Instr.hfenceVvma rs1 rs2, .hfenceGvma rs1 rs2]) : s.privilegedBar i = some excVirtual := by
  simp only [List.mem_cons, List.not_mem_nil, or_false] at hi
  rcases hi with rfl | rfl <;> simp [State.privilegedBar, hv]

/-- In HS-mode TVM bars SFENCE.VMA and HFENCE.GVMA. -/
theorem State.privilegedBar_tvm (hv : s.v = false) (hp : s.priv = .s) (htvm : s.mstatusTvm = true) {i : Instr}
    (hi : i ∈ [Instr.sfenceVma rs1 rs2, .hfenceGvma rs1 rs2]) : s.privilegedBar i = some excIllegal := by
  simp only [List.mem_cons, List.not_mem_nil, or_false] at hi
  rcases hi with rfl | rfl <;> simp [State.privilegedBar, State.sfenceBar, hv, hp, htvm]

end

/-- What a guest's bit and the host's bit bar in the mode they are for, both barring a user mode. -/
def State.supervisorBar (s : State) (guestBit hostBit : Bool) : Option Nat :=
  match s.v, s.priv with
  | true, .u => some excVirtual
  | true, _ => if guestBit then some excVirtual else none
  | false, .u => some excIllegal
  | false, .s => if hostBit then some excIllegal else none
  | false, .m => none

/-- SRET is barred by VTSR and TSR. -/
theorem State.sretBar_eq (s : State) : s.sretBar = s.supervisorBar s.vtsr s.mstatusTsr := rfl

/-- SFENCE.VMA is barred by VTVM and TVM. -/
theorem State.sfenceBar_eq (s : State) : s.sfenceBar = s.supervisorBar s.vtvm s.mstatusTvm := rfl

/-- At V = 1 above VU-mode the guest's bit decides. -/
theorem State.supervisorBar_guest {s : State} (hv : s.v = true) (hp : s.priv ≠ .u) (guestBit hostBit : Bool) :
    s.supervisorBar guestBit hostBit = if guestBit then some excVirtual else none := by
  unfold State.supervisorBar
  rw [hv]
  cases hpriv : s.priv with
  | u => exact absurd hpriv hp
  | s | m => rfl

/-- At V = 0 above U-mode the host's bit decides, in HS-mode. -/
theorem State.supervisorBar_host {s : State} (hv : s.v = false) (hp : s.priv ≠ .u) (guestBit hostBit : Bool) :
    s.supervisorBar guestBit hostBit = if s.priv = .s ∧ hostBit = true then some excIllegal else none := by
  unfold State.supervisorBar
  rw [hv]
  cases hpriv : s.priv with
  | u => exact absurd hpriv hp
  | s => simp
  | m => simp

/-- At V = 1 above VU-mode nothing is barred where the guest's bit is clear. -/
theorem State.supervisorBar_guest_none {s : State} (hv : s.v = true) (hp : s.priv ≠ .u) (hostBit : Bool) :
    s.supervisorBar false hostBit = none := State.supervisorBar_guest hv hp false hostBit

/-- At V = 0 above U-mode nothing is barred where the host's bit is clear in HS-mode. -/
theorem State.supervisorBar_host_none {s : State} {hostBit : Bool} (hv : s.v = false) (hp : s.priv ≠ .u)
    (hclear : s.priv = .s → hostBit = false) (guestBit : Bool) : s.supervisorBar guestBit hostBit = none := by
  rw [State.supervisorBar_host hv hp]
  exact if_neg fun ⟨hs, hset⟩ => absurd ((hclear hs).symm.trans hset) (by decide)

/-- Settles O29: each row of the table is the bar of its instruction in its mode. -/
theorem returnsAndFencesAreBarredAsTabled : Obligations.ReturnsAndFencesAreBarredAsTabled := by
  unfold Obligations.ReturnsAndFencesAreBarredAsTabled
  refine ⟨fun s hv hp rs1 rs2 i hi => ?user, fun s hv hp rs1 rs2 i hi => ?guestUser, fun s hv rs1 rs2 i hi => ?guest,
    fun s hm => ?mret, fun s hv hp hvtsr => ?vtsr, fun s hv hp htsr => ?tsr, fun s hv hp hvtvm rs1 rs2 => ?vtvm,
    fun s hv hp htvm rs1 rs2 i hi => ?tvm⟩
  case user => exact exec_barred (State.privilegedBar_user rs1 rs2 hv hp hi)
  case guestUser => exact exec_barred (State.privilegedBar_guestUser rs1 rs2 hv hp hi)
  case guest => exact exec_barred (State.privilegedBar_guest rs1 rs2 hv hi)
  case mret => exact exec_barred (if_neg hm)
  case vtsr => exact exec_barred ((State.supervisorBar_guest hv (by simp [hp]) _ _).trans (if_pos hvtsr))
  case tsr => exact exec_barred ((State.supervisorBar_host hv (by simp [hp]) _ _).trans (if_pos ⟨hp, htsr⟩))
  case vtvm => exact exec_barred ((State.supervisorBar_guest hv (by simp [hp]) _ _).trans (if_pos hvtvm))
  case tvm => exact exec_barred (State.privilegedBar_tvm rs1 rs2 hv hp htvm hi)

end Sys2Proof.Machine

/-! ## Privileged, part 3: SRET (42_privileged.md R281, R282) -/

namespace Sys2Proof.Machine

/-- The returns write no field of a status register above bit 8. -/
theorem field_leaveStatus (w : Word) {lo len : Nat} (h : 8 < lo) : field (leaveStatus w) lo len = field w lo len :=
  field_congr _ _ fun j _ => by rw [bit_leaveStatus, if_neg (by omega), if_neg (by omega), if_neg (by omega)]

/-- The widths of the modes follow from the parameters and three width codes. -/
theorem State.xlenOf_congr {s t : State} (hcfg : t.cfg = s.cfg) (hvsxl : t.vsxl = s.vsxl)
    (hvs : field t.vs.vsstatus 32 2 = field s.vs.vsstatus 32 2)
    (hmach : field t.mach.mstatus 32 2 = field s.mach.mstatus 32 2) (v : Bool) (p : Priv) :
    t.xlenOf v p = s.xlenOf v p := by
  simp only [State.xlenOf, State.uxlen, State.hsUxl, State.vuxlen, State.vsUxl, State.vsxlen_congr hcfg hvsxl, hcfg,
    hvsxl, hvs, hmach]

theorem State.bit_returnHyper_mstatus (s : State) (i : Nat) :
    bit s.returnHyper.mach.mstatus i =
      if i = 17 ∧ s.priv = .m then false else bit (leaveStatus s.mach.mstatus) i := by
  unfold State.returnHyper
  by_cases hm : s.priv = .m <;> simp [hm, bit_setBit]

/-- SRET at V = 0 leaves the modes as wide as they were. -/
theorem State.returnHyper_xlen (s : State) : s.returnHyper.xlen = s.xlenOf s.spv (privOfBit s.spp) := by
  have hvsxl : s.returnHyper.vsxl = s.vsxl := field_setBit_out _ _ _ _ _ (by omega)
  have huxl : field s.returnHyper.mach.mstatus 32 2 = field s.mach.mstatus 32 2 := by
    refine (field_congr _ _ fun j _ => ?_).trans (field_leaveStatus _ (by omega))
    rw [s.bit_returnHyper_mstatus, if_neg (by omega)]
  exact State.xlenOf_congr (s := s) (t := s.returnHyper) rfl hvsxl rfl huxl _ _

/-- SRET at V = 1 leaves the modes as wide as they were. -/
theorem State.returnGuest_xlen {s : State} (hv : s.v = true) :
    s.returnGuest.xlen = s.xlenOf true (privOfBit s.vsSpp) := by
  have hwidth := State.xlenOf_congr (s := s) (t := s.returnGuest) rfl rfl (field_leaveStatus _ (by omega)) rfl
  rw [State.xlen, hwidth, State.returnGuest_v, hv, State.returnGuest_priv]

/-- Settles O26: SRET at V = 0 is `State.returnHyper`, whose `mstatus` and `hstatus` are read bit by bit. -/
theorem sretAtV0RestoresModeFromSpvAndSpp : Obligations.SretAtV0RestoresModeFromSpvAndSpp := by
  unfold Obligations.SretAtV0RestoresModeFromSpvAndSpp
  intro s hv hp htsr
  have hbar : s.sretBar = none := State.supervisorBar_host_none hv hp htsr _
  have hstatus := s.bit_returnHyper_mstatus
  refine ⟨s.returnHyper, exec_sret_host hv hbar, rfl, rfl, ?sie, ?spie, ?spp, bit_setBit_self _ 7 _ (by omega), ?pc, ?mprv,
    ?mstatus, ?hstatus, rfl, rfl, rfl, rfl, ⟨rfl, rfl, rfl, ⟨rfl, rfl, rfl⟩, rfl, rfl⟩⟩
  case sie => exact (hstatus 1).trans (bit_leaveStatus _ 1)
  case spie => exact (hstatus 5).trans (bit_leaveStatus _ 5)
  case spp => exact (hstatus 8).trans (bit_leaveStatus _ 8)
  case pc =>
    intro hx
    rw [State.returnHyper_pc, ← s.returnHyper_xlen, hx]
  case mprv => exact fun hm => (hstatus 17).trans (if_pos ⟨rfl, hm⟩)
  case mstatus =>
    intro i h1 h5 h8 h17
    rw [hstatus i, if_neg fun h => h17 h.1 h.2, bit_leaveStatus, if_neg h8, if_neg h5, if_neg h1]
  case hstatus => exact fun i h7 => bit_setBit_ne _ _ _ _ h7

/-- Settles O27: SRET in VS-mode is `State.returnGuest`, which touches no CSR but `vsstatus`. -/
theorem sretInVsModeReturnsWithinTheGuest : Obligations.SretInVsModeReturnsWithinTheGuest := by
  unfold Obligations.SretInVsModeReturnsWithinTheGuest
  intro s hv hp
  have hnu : s.priv ≠ .u := by simp [hp]
  refine ⟨fun hvtsr => ?barred, fun hvtsr => ?returned⟩
  case barred => exact exec_barred ((State.supervisorBar_guest hv hnu _ _).trans (if_pos hvtsr))
  case returned =>
    have hbar : s.sretBar = none := by
      rw [s.sretBar_eq, hvtsr]
      exact State.supervisorBar_guest_none hv hnu _
    refine ⟨s.returnGuest, exec_sret_guest hv hbar, hv, rfl, bit_leaveStatus _ 1, bit_leaveStatus _ 5, bit_leaveStatus _ 8,
      fun hx => ?pc, fun i h1 h5 h8 => ?vsstatus, rfl, rfl, rfl, rfl, ⟨rfl, rfl, rfl, ⟨rfl, rfl, rfl⟩, rfl, rfl⟩⟩
    case pc => rw [State.returnGuest_pc, ← State.returnGuest_xlen hv, hx]
    case vsstatus => exact (bit_leaveStatus _ i).trans (by rw [if_neg h8, if_neg h5, if_neg h1])

end Sys2Proof.Machine

/-! ## Privileged, part 4: WFI (42_privileged.md R286 to R288) -/

namespace Sys2Proof.Machine

/-- A WFI whose time nothing bounds moves on. -/
theorem exec_wfi_unbounded {s : State} (h : s.wfiLimitCode = none) : exec .wfi s = .next s.advance := by
  show execWfi s = _
  rw [execWfi, h]

/-- A WFI whose time is bounded moves on or raises the exception of its mode. -/
theorem exec_wfi_bounded {s : State} {c : Nat} (h : s.wfiLimitCode = some c) :
    exec .wfi s = .next s.advance ∨ exec .wfi s = .next (s.raiseBarred c (encode .wfi)) := by
  have hexec : exec .wfi s = .next (if Config.wfiTimeout s.tick then s.raiseBarred c (encode .wfi) else s.advance) := by
    show execWfi s = _
    rw [execWfi, h]
  rw [hexec]
  cases Config.wfiTimeout s.tick with
  | false => exact .inl rfl
  | true => exact .inr rfl

/-- TW bounds a WFI in every mode below M. -/
theorem State.wfiLimitCode_tw {s : State} (hm : s.priv ≠ .m) (htw : s.mstatusTw = true) :
    s.wfiLimitCode = some excIllegal := by
  rw [State.wfiLimitCode, if_neg hm, if_pos htw]

/-- Without TW a user mode is bounded, and VS-mode by VTW. -/
theorem State.wfiLimitCode_no_tw {s : State} (hm : s.priv ≠ .m) (htw : s.mstatusTw = false) :
    s.wfiLimitCode =
      if s.v then (if s.priv = .u ∨ s.vtw = true then some excVirtual else none)
      else if s.priv = .u then some excIllegal else none := by
  unfold State.wfiLimitCode
  rw [if_neg hm, htw]
  cases hpriv : s.priv with
  | m => exact absurd hpriv hm
  | u => cases s.v <;> rfl
  | s => cases s.v <;> simp

/-- Settles O30: the bound of each mode decides between moving on and its exception. -/
theorem wfiCompletesOrTrapsAsItsModeAllows : Obligations.WfiCompletesOrTrapsAsItsModeAllows := by
  unfold Obligations.WfiCompletesOrTrapsAsItsModeAllows
  refine ⟨fun s h => exec_wfi_unbounded ?unbounded, fun s hm htw => exec_wfi_bounded (State.wfiLimitCode_tw hm htw),
    fun s hv htw h => exec_wfi_bounded ?guest, fun s hv htw hp => exec_wfi_bounded ?user⟩
  case unbounded =>
    rcases h with hm | ⟨htw, hp, hvtw⟩
    · exact if_pos hm
    · rw [State.wfiLimitCode_no_tw (by simp [hp]) htw]
      cases hv : s.v with
      | false => simp [hp]
      | true => simp [hp, hvtw hv]
  case guest =>
    have hbounded : s.priv = .u ∨ s.vtw = true := h.imp_right And.right
    have hm : s.priv ≠ .m := by rcases h with hp | ⟨hp, -⟩ <;> simp [hp]
    rw [State.wfiLimitCode_no_tw hm htw, if_pos hv, if_pos hbounded]
    rfl
  case user =>
    rw [State.wfiLimitCode_no_tw (by simp [hp]) htw, if_neg (by simp [hv]), if_pos hp]
    rfl

end Sys2Proof.Machine

/-! ## Privileged, part 5: the fences (42_privileged.md R290, R294, R296) -/

namespace Sys2Proof.Machine

/-! ### Scopes -/

/-- An optional operand restricts a scope where it is given. -/
theorem optionMatches_iff (o : Option Nat) (n : Nat) : (o.isNone || o == some n) = true ↔ ∀ q, o = some q → n = q := by
  cases o with
  | none => simp
  | some q => simp [eq_comm (a := q) (b := n)]

theorem singleScope_iff (page asid : Option Nat) (e : TlbEntry) :
    singleScope page asid e = true ↔
      e.key.stage = .single ∧ (∀ p, page = some p → e.key.page = p) ∧ (∀ a, asid = some a → e.key.asid = a) := by
  simp only [singleScope, Bool.and_eq_true, optionMatches_iff, beq_iff_eq, and_assoc]

theorem vsScope_iff (vmid : Nat) (page asid : Option Nat) (e : TlbEntry) :
    vsScope vmid page asid e = true ↔
      e.key.stage = .vsStage ∧ e.key.vmid = vmid ∧ (∀ p, page = some p → e.key.page = p) ∧
        (∀ a, asid = some a → e.key.asid = a) := by
  simp only [vsScope, Bool.and_eq_true, optionMatches_iff, beq_iff_eq, and_assoc]

/-- HFENCE.GVMA's scope by the stage of the copy. -/
theorem gScope_iff_stage (page vmid : Option Nat) (e : TlbEntry) :
    gScope page vmid e = true ↔
      (∀ v, vmid = some v → e.key.vmid = v) ∧
        ((e.key.stage = .vsStage ∧ ∀ q, page = some q → e.table = q) ∨
          (e.key.stage = .gStage ∧ ∀ q, page = some q → e.key.page = q)) := by
  rw [gScope_iff]
  simp only [eq_comm (b := e.key.vmid)]
  cases hstage : e.key.stage with
  | single => simp [TlbEntry.guestPage, hstage]
  | vsStage => simp [TlbEntry.guestPage, hstage, eq_comm (b := e.table)]
  | gStage => simp [TlbEntry.guestPage, hstage, eq_comm (b := e.key.page)]

/-! ### Operands -/

/-- An operand that x0 leaves out restricts by its value where the register is another. -/
theorem forall_operand {r : Reg} {n m : Nat} : (∀ q, (if r = 0 then none else some n) = some q → m = q) ↔ (r ≠ 0 → m = n) := by
  by_cases h : r = 0 <;> simp [h]

theorem field_low (w : Word) (len : Nat) : field w 0 len = w.toNat % 2 ^ len := by simp [field]

/-- The ASID operand is the low bits of its register, as many as the field has at the width. -/
theorem State.asidOperand_eq (s : State) (x : Xlen) (rs2 : Reg) :
    s.asidOperand x rs2 = if rs2 = 0 then none else some ((s.x rs2).toNat % 2 ^ (if x = .x32 then 9 else 16)) := by
  cases x <;> simp only [State.asidOperand, field_low, if_true, reduceCtorEq, if_false]

theorem State.vsFenceScope_iff (s : State) (rs1 rs2 : Reg) (e : TlbEntry) :
    s.vsFenceScope rs1 rs2 e = true ↔
      e.key.stage = .vsStage ∧ e.key.vmid = s.hgatpVmid ∧
        (rs1 ≠ 0 → e.key.page = (fit s.vsxlen (s.x rs1)).toNat / 4096) ∧
        (rs2 ≠ 0 → e.key.asid = (s.x rs2).toNat % 2 ^ (if s.vsxlen = .x32 then 9 else 16)) := by
  rw [State.vsFenceScope, vsScope_iff, State.asidOperand_eq, State.pageOperand, forall_operand, forall_operand]

/-! ### What a fence that completes leaves -/

/-- A fence that is not barred drops the copies in its scope and keeps everything else. -/
theorem fence_completes {s : State} {i : Instr} {scope : TlbEntry → Bool} {inScope : TlbEntry → Prop}
    (hexec : exec i s = .next (s.flush scope).advance) (hscope : ∀ e, scope e = true ↔ inScope e) :
    ∃ t, exec i s = .next t ∧ SameControl s t ∧ t.regs = s.regs ∧ t.mem = s.mem ∧ t.storedTo = s.storedTo ∧
      t.pc = fit s.xlen (s.pc + 4) ∧ (∀ e, e ∈ t.tlb ↔ e ∈ s.tlb ∧ ¬ inScope e) := by
  refine ⟨_, hexec, ⟨rfl, rfl, rfl, rfl, rfl, rfl, rfl, rfl, rfl, rfl⟩, rfl, rfl, rfl, rfl, fun e => ?_⟩
  rw [State.advance_tlb, State.mem_flush, ← hscope, Bool.not_eq_true]

/-- SFENCE.VMA at V = 1 that is not barred. -/
theorem exec_sfenceVma_guest {s : State} (rs1 rs2 : Reg) (hv : s.v = true) (hbar : s.sfenceBar = none) :
    exec (.sfenceVma rs1 rs2) s = .next (s.flush (s.vsFenceScope rs1 rs2)).advance := by
  show s.unlessBarred _ s.sfenceBar _ = _
  rw [hbar, hv]
  rfl

/-- SFENCE.VMA at V = 0 that is not barred. -/
theorem exec_sfenceVma_host {s : State} (rs1 rs2 : Reg) (hv : s.v = false) (hbar : s.sfenceBar = none) :
    exec (.sfenceVma rs1 rs2) s =
      .next (s.flush (singleScope (s.pageOperand s.cfg.hsxlen rs1) (s.asidOperand s.cfg.hsxlen rs2))).advance := by
  show s.unlessBarred _ s.sfenceBar _ = _
  rw [hbar, hv]
  rfl

/-- HFENCE.VVMA at V = 0 above U-mode. -/
theorem exec_hfenceVvma_host {s : State} (rs1 rs2 : Reg) (hv : s.v = false) (hp : s.priv ≠ .u) :
    exec (.hfenceVvma rs1 rs2) s = .next (s.flush (s.vsFenceScope rs1 rs2)).advance := by
  show execHfenceVvma rs1 rs2 s = _
  rw [execHfenceVvma, hv, if_neg (by decide), if_neg hp]
  rfl

/-- HFENCE.GVMA at V = 0 above U-mode, in HS-mode with TVM clear. -/
theorem exec_hfenceGvma_host {s : State} (rs1 rs2 : Reg) (hv : s.v = false) (hp : s.priv ≠ .u)
    (htvm : s.priv = .s → s.mstatusTvm = false) :
    exec (.hfenceGvma rs1 rs2) s = .next (s.flush (gScope (s.gpaPageOperand rs1) (s.vmidOperand rs2))).advance := by
  have hclear : ¬ (s.priv = .s ∧ s.mstatusTvm = true) := fun ⟨hs, hset⟩ => absurd ((htvm hs).symm.trans hset) (by decide)
  show execHfenceGvma rs1 rs2 s = _
  rw [execHfenceGvma, hv, if_neg (by decide), if_neg hp, if_neg hclear]
  rfl

/-- Settles O31: each fence completes, and its scope is the stage, the identifiers and the page its operands name. -/
theorem fencesDropTheCachedCopiesInTheirScopes : Obligations.FencesDropTheCachedCopiesInTheirScopes := by
  unfold Obligations.FencesDropTheCachedCopiesInTheirScopes
  refine ⟨fun s rs1 rs2 hp hvtvm htvm => ?sfenceVma, fun s rs1 rs2 hv hp => ?hfenceVvma,
    fun s rs1 rs2 hv hp htvm => ?hfenceGvma⟩
  case sfenceVma =>
    cases hv : s.v with
    | true =>
      have hbar : s.sfenceBar = none := by
        rw [s.sfenceBar_eq, hvtvm hv]
        exact State.supervisorBar_guest_none hv hp _
      refine fence_completes (exec_sfenceVma_guest rs1 rs2 hv hbar) fun e => ?_
      rw [s.vsFenceScope_iff, ← and_assoc]
      rfl
    | false =>
      have hbar : s.sfenceBar = none := State.supervisorBar_host_none hv hp (htvm hv) _
      refine fence_completes (exec_sfenceVma_host rs1 rs2 hv hbar) fun e => ?_
      rw [singleScope_iff, State.asidOperand_eq, State.pageOperand, forall_operand, forall_operand]
      rfl
  case hfenceVvma =>
    exact fence_completes (exec_hfenceVvma_host rs1 rs2 hv hp) fun e => s.vsFenceScope_iff rs1 rs2 e
  case hfenceGvma =>
    refine fence_completes (exec_hfenceGvma_host rs1 rs2 hv hp htvm) fun e => ?_
    rw [gScope_iff_stage, State.vmidOperand, State.gpaPageOperand, forall_operand, forall_operand, forall_operand]

end Sys2Proof.Machine

/-! ## Privileged, part 6: ECALL and EBREAK (42_privileged.md R298, R299) -/

namespace Sys2Proof.Machine

/-- The code of an ECALL in each mode. -/
theorem State.ecallCode_eq {s : State} {c : Nat}
    (h : (s.priv = .u ∧ c = 8) ∨ (s.priv = .s ∧ s.v = false ∧ c = 9) ∨ (s.priv = .s ∧ s.v = true ∧ c = 10) ∨
      (s.priv = .m ∧ c = 11)) : s.ecallCode = c := by
  unfold State.ecallCode
  rcases h with ⟨hp, rfl⟩ | ⟨hp, hv, rfl⟩ | ⟨hp, hv, rfl⟩ | ⟨hp, rfl⟩
  · rw [hp]; rfl
  · rw [hp, hv]; rfl
  · rw [hp, hv]; rfl
  · rw [hp]; rfl

/-- Settles O25: both only take their exception, at their own pc. -/
theorem ecallAndEbreakRaiseTheirCodes : Obligations.EcallAndEbreakRaiseTheirCodes := by
  unfold Obligations.EcallAndEbreakRaiseTheirCodes
  refine ⟨fun s c h => ?ecall, fun s => ⟨Config.drawTval s.tick, rfl⟩⟩
  case ecall =>
    rw [← State.ecallCode_eq h]
    rfl

end Sys2Proof.Machine

/-! ## Exceptions, part 1: what taking a trap writes (60_exceptions.md R351, R352, R354) -/

namespace Sys2Proof.Machine

/-- A trap changes neither the parameters nor anything a program computes on: registers, memory, counters and inputs. -/
theorem State.enter_sameOutsideTrap (s : State) (g : Target) (t : Trap) (epc : Word) :
    SameOutsideTrap s (s.enter g t epc) :=
  ⟨s.enter_cfg g t epc, s.enter_regs g t epc, s.enter_counters g t epc,
    ⟨s.enter_mem g t epc, s.enter_storedTo g t epc, s.enter_tlb g t epc⟩, s.enter_plat g t epc, s.enter_tick g t epc⟩

/-- Trap entry writes SIE, SPIE and SPP of a status register only. -/
theorem bit_enterStatus_other (w : Word) (spp : Bool) {i : Nat} (h1 : i ≠ 1) (h5 : i ≠ 5) (h8 : i ≠ 8) :
    bit (enterStatus w spp) i = bit w i := by
  rw [bit_enterStatus, if_neg h8, if_neg h1, if_neg h5]

/-- Trap entry into HS-mode leaves in SPVP the privilege, where V was 1. -/
theorem State.spvp_hstatusOfEntry (s : State) (t : Trap) :
    bit (s.hstatusOfEntry t) 8 = if s.v then s.priv == .s else s.spvp := by
  rw [s.bit_hstatusOfEntry]
  cases s.v <;> rfl

/-- Trap entry into HS-mode writes GVA, SPV and SPVP of `hstatus` only. -/
theorem State.bit_hstatusOfEntry_other (s : State) (t : Trap) {i : Nat} (h6 : i ≠ 6) (h7 : i ≠ 7) (h8 : i ≠ 8) :
    bit (s.hstatusOfEntry t) i = bit s.hyp.hstatus i := by
  rw [s.bit_hstatusOfEntry, if_neg h6, if_neg fun h => h8 h.1, if_neg h7]

/-- Trap entry into M-mode writes MIE, MPIE, MPP, GVA and MPV of `mstatus` only. -/
theorem State.bit_mstatusOfEntry_other (s : State) (t : Trap) {i : Nat} (h3 : i ≠ 3) (h7 : i ≠ 7) (h11 : i ≠ 11)
    (h12 : i ≠ 12) (h38 : i ≠ 38) (h39 : i ≠ 39) : bit (s.mstatusOfEntry t) i = bit s.mach.mstatus i := by
  rw [s.bit_mstatusOfEntry, if_neg h3, if_neg h7, if_neg (by omega), if_neg h38, if_neg h39]

/-- The code VS-mode is told of: one lower for each of the three VS-level interrupts (60_exceptions.md R343). -/
theorem guestCode_eq {isInt : Bool} {code : Nat} (h : isInt = true → code = 10 ∨ code = 6 ∨ code = 2) :
    guestCode isInt code = if isInt then code - 1 else code := by
  cases isInt with
  | false => rfl
  | true => obtain rfl | rfl | rfl := h rfl <;> rfl

/-- Settles O19: the entry into HS-mode, whose two status words are read bit by bit. -/
theorem trapIntoHsModeWritesItsRegisters : Obligations.TrapIntoHsModeWritesItsRegisters := by
  unfold Obligations.TrapIntoHsModeWritesItsRegisters
  intro s t epc
  exact ⟨rfl, s.bit_hstatusOfEntry t 7, s.spvp_hstatusOfEntry t, s.bit_hstatusOfEntry t 6,
    fun _ h6 h7 h8 => s.bit_hstatusOfEntry_other t h6 h7 h8, rfl, bit_enterStatus _ _ 8, bit_enterStatus _ _ 5,
    bit_enterStatus _ _ 1, fun _ h1 h5 h8 => bit_enterStatus_other _ _ h1 h5 h8, rfl, rfl, rfl, rfl, rfl,
    s.enter_sameOutsideTrap .hyper t epc⟩

/-- Settles O20: the entry into VS-mode, which reports the guest's code and writes no CSR but the VS ones. -/
theorem trapIntoVsModeWritesItsRegisters : Obligations.TrapIntoVsModeWritesItsRegisters := by
  unfold Obligations.TrapIntoVsModeWritesItsRegisters
  intro s t epc hv hint
  rw [← guestCode_eq hint]
  exact ⟨rfl, bit_enterStatus _ _ 8, bit_enterStatus _ _ 5, bit_enterStatus _ _ 1,
    fun _ h1 h5 h8 => bit_enterStatus_other _ _ h1 h5 h8, rfl, hv, rfl, rfl, rfl, rfl, s.enter_sameOutsideTrap .guest t epc⟩

/-- Settles O21: the entry into M-mode, whose `mstatus` is read bit by bit. -/
theorem trapIntoMachineModeWritesItsRegisters : Obligations.TrapIntoMachineModeWritesItsRegisters := by
  unfold Obligations.TrapIntoMachineModeWritesItsRegisters
  intro s t epc
  exact ⟨rfl, s.bit_mstatusOfEntry t 39, s.bit_mstatusOfEntry t 38, s.field_mpp_mstatusOfEntry t, s.bit_mstatusOfEntry t 7,
    s.bit_mstatusOfEntry t 3, fun _ h3 h7 h11 h12 h38 h39 => s.bit_mstatusOfEntry_other t h3 h7 h11 h12 h38 h39,
    rfl, rfl, rfl, rfl, rfl, rfl, s.enter_sameOutsideTrap .machine t epc⟩

end Sys2Proof.Machine

/-! ## Exceptions, part 2: where a trap goes (60_exceptions.md R341, R357) -/

namespace Sys2Proof.Machine

/-- A value at a width is its residue. -/
theorem toNat_fit (x : Xlen) (w : Word) : (fit x w).toNat = w.toNat % 2 ^ x.bits := by
  cases x with
  | x32 =>
    rw [fit, BitVec.toNat_and]
    exact Nat.and_two_pow_sub_one_eq_mod _ 32
  | x64 => exact (Nat.mod_eq_of_lt w.isLt).symm

/-- BASE is the multiple of 4 below the trap vector register. -/
theorem toNat_tvecBase (w : Word) : (merge 0x3 0 w).toNat = w.toNat / 4 * 4 := by
  have hmask : ∀ i, i < 64 → bit 0x3 i = decide (i < 2) := by decide
  have hshift : merge 0x3 0 w = (w >>> 2) <<< 2 := by
    refine word_eq_of_bits fun i hi => ?_
    rw [bit_merge, hmask i hi]
    by_cases hlow : i < 2
    · simp [bit, hlow]
    · simp [bit, hlow, hi, Nat.add_sub_cancel' (Nat.le_of_not_lt hlow)]
  rw [hshift, BitVec.toNat_shiftLeft, BitVec.toNat_ushiftRight, Nat.shiftRight_eq_div_pow, Nat.shiftLeft_eq]
  omega

/-- A trap's target as a number: the offset of a vectored one is a multiple of 4, and 2^XLEN divides 2^64. -/
theorem toNat_trapVector (x : Xlen) (tvec : Word) (isInt : Bool) (code : Nat) :
    (trapVector x tvec isInt code).toNat =
      (tvec.toNat / 4 * 4 + (if tvec.toNat % 4 = 1 ∧ isInt = true then 4 * code else 0)) % 2 ^ x.bits := by
  have hdvd : 2 ^ x.bits ∣ 2 ^ 64 := Nat.pow_dvd_pow 2 (by cases x <;> simp [Xlen.bits])
  rw [trapVector, toNat_fit, field_low, show 2 ^ 2 = 4 from rfl]
  by_cases hvec : tvec.toNat % 4 = 1 ∧ isInt = true
  · rw [if_pos hvec, if_pos hvec, BitVec.toNat_add, toNat_tvecBase, BitVec.toNat_ofNat, Nat.add_mod_mod,
      Nat.mod_mod_of_dvd _ hdvd]
  · rw [if_neg hvec, if_neg hvec, toNat_tvecBase, Nat.add_zero]

/-- Settles O22: BASE and the offset are multiples of 4, and so is 2^XLEN. -/
theorem trapVectorIsBaseOrVectoredAndAligned : Obligations.TrapVectorIsBaseOrVectoredAndAligned := by
  unfold Obligations.TrapVectorIsBaseOrVectoredAndAligned
  intro x tvec isInt code
  refine ⟨?aligned, toNat_trapVector x tvec isInt code⟩
  case aligned =>
    have hdvd : 4 ∣ 2 ^ x.bits := Nat.pow_dvd_pow 2 (m := 2) (by cases x <;> simp [Xlen.bits])
    rw [toNat_trapVector, Nat.mod_mod_of_dvd _ hdvd]
    split <;> omega

/-- Raised in M-mode or kept by `medeleg`, an exception is taken in M-mode. -/
theorem State.exceptionTarget_machine {s : State} {c : Nat} (h : s.priv = .m ∨ bit s.medelegBits c = false) :
    s.exceptionTarget c = .machine := if_pos h

/-- A delegated exception is taken by the guest where `hedeleg` passes it on. -/
theorem State.exceptionTarget_delegated {s : State} {c : Nat} (hp : s.priv ≠ .m) (hd : bit s.medelegBits c = true) :
    s.exceptionTarget c = if s.v = true ∧ bit s.hedelegBits c = true then .guest else .hyper :=
  if_neg (by simp [hp, hd])

/-- `hedeleg` has no bit of the codes that never go to the guest. -/
theorem State.hedelegBits_never (s : State) {c : Nat} (hc : c ∈ [9, 10, 11, 20, 21, 22, 23]) :
    bit s.hedelegBits c = false := by
  have hmask : bit (hedelegMask s.cfg) c = false := by
    have hlisted : ∀ c ∈ [9, 10, 11, 20, 21, 22, 23], c ∉ [1, 2, 3, 4, 5, 6, 7, 8, 12, 13, 15] ∧ (c == 0) = false := by
      decide
    rw [bit_hedelegMask, decide_eq_false (hlisted c hc).1, (hlisted c hc).2]
    rfl
  rw [State.hedelegBits, bit_and, hmask, Bool.and_false]

/-- Settles O23: the guest takes an exception only at V = 1 and with its `hedeleg` bit; the other clauses are the branches
of `State.exceptionTarget`. -/
theorem neverDelegatedExceptionsStayOutOfTheGuest : Obligations.NeverDelegatedExceptionsStayOutOfTheGuest := by
  unfold Obligations.NeverDelegatedExceptionsStayOutOfTheGuest
  refine ⟨fun s c hc hguest => ?never, fun s c hv hguest => ?host, fun s c hp => State.exceptionTarget_machine (.inl hp),
    fun s c hd => State.exceptionTarget_machine (.inr hd), fun s c hv hp hd hh => ?guest, fun s c hp hd hh => ?hyper⟩
  case never =>
    obtain ⟨-, hset, -, -⟩ := State.exceptionTarget_guest hguest
    exact absurd ((s.hedelegBits_never hc).symm.trans hset) (by decide)
  case host =>
    obtain ⟨hset, -, -, -⟩ := State.exceptionTarget_guest hguest
    exact absurd (hv.symm.trans hset) (by decide)
  case guest => exact (State.exceptionTarget_delegated hp hd).trans (if_pos ⟨hv, hh⟩)
  case hyper =>
    have hkept : ¬ (s.v = true ∧ bit s.hedelegBits c = true) := by
      rintro ⟨hv, hset⟩
      rcases hh with h | h
      · exact absurd (h.symm.trans hv) (by decide)
      · exact absurd (h.symm.trans hset) (by decide)
    exact (State.exceptionTarget_delegated hp hd).trans (if_neg hkept)

end Sys2Proof.Machine

/-! ## Exceptions, part 3: `htval` and `htinst` (60_exceptions.md R355, R356) -/

namespace Sys2Proof.Machine

theorem isGuestPageCode_iff (c : Nat) : isGuestPageCode c = true ↔ c ∈ [20, 21, 23] := by
  simp [isGuestPageCode, or_assoc]

/-- A nonzero `htval` is the shifted address of a guest-page fault, legal and told apart from an implicit access. -/
theorem State.htvalOfTrap_cases (s : State) (t : Trap) :
    s.htvalOfTrap t = 0 ∨ ∃ g, t.guest = some g ∧ t.isInt = false ∧ t.code ∈ [20, 21, 23] ∧ s.tellsImplicit g = true ∧
      s.htvalOfTrap t = shiftedGpa s.cfg.hsxlen g.gpa ∧ Config.htvalHolds (s.htvalOfTrap t) = true := by
  unfold State.htvalOfTrap
  split
  · next g hg =>
    dsimp only
    split
    · next h =>
      simp only [Bool.and_eq_true, Bool.not_eq_true', isGuestPageCode_iff] at h
      obtain ⟨⟨⟨⟨hint, hcode⟩, -⟩, hholds⟩, htells⟩ := h
      exact .inr ⟨g, hg, hint, hcode, htells, rfl, hholds⟩
    · exact .inl rfl
  · exact .inl rfl

/-- A value made legal is 0 or in the legal set. -/
theorem htinstHolds_htinstLegal (w : Word) : htinstLegal w = 0 ∨ Config.htinstHolds (htinstLegal w) = true :=
  (htinstLegal_spec w).imp_right fun ⟨heq, hholds⟩ => by rwa [heq]

/-- `htinst` is 0 or in its legal set. -/
theorem State.htinstOfTrap_legal (s : State) (t : Trap) :
    s.htinstOfTrap t = 0 ∨ Config.htinstHolds (s.htinstOfTrap t) = true := by
  have hdrawn : ∀ (b : Bool) (w : Word), (if b then htinstLegal w else 0) = 0 ∨
      Config.htinstHolds (if b then htinstLegal w else 0) = true := by
    intro b w
    cases b with
    | false => exact .inl rfl
    | true => exact htinstHolds_htinstLegal w
  unfold State.htinstOfTrap
  split
  · exact .inl rfl
  · split
    · split
      · exact hdrawn _ _
      · exact hdrawn _ _
    · exact hdrawn _ _

/-- With a nonzero `htval` an implicit access has its pseudo-instruction in `htinst`. -/
theorem State.htinstOfTrap_implicit {s : State} {t : Trap} {g : GuestFault} (hg : t.guest = some g)
    (him : g.implicit = true) (h : s.htvalOfTrap t ≠ 0) : s.htinstOfTrap t = pseudoInstr g := by
  obtain hz | ⟨g', hg', hint, -, htells, -, -⟩ := s.htvalOfTrap_cases t
  · exact absurd hz h
  · obtain rfl : g = g' := Option.some.inj (hg.symm.trans hg')
    have htold : s.cfg.htinstNonzero = true ∧ Config.htinstHolds (pseudoInstr g) = true := by
      simpa [State.tellsImplicit, him] using htells
    have hval : (s.htvalOfTrap t != 0) = true := bne_iff_ne.mpr h
    simp only [State.htinstOfTrap, hg, hint, him, hval, htold, htinstLegal, Bool.not_true, Bool.or_self, Bool.true_or,
      Bool.false_eq_true, if_true, if_false]

/-- Settles O24: from what a nonzero `htval` says, and that `htinst` is made legal. -/
theorem htvalHoldsZeroOrTheShiftedGuestAddress : Obligations.HtvalHoldsZeroOrTheShiftedGuestAddress := by
  unfold Obligations.HtvalHoldsZeroOrTheShiftedGuestAddress
  intro s t epc
  refine ⟨fun g hg _ _ => ?shifted, fun h => ?zero, fun h => ?zeroInst, s.htinstOfTrap_legal t, fun g hg him => ?pseudo⟩
  case shifted =>
    refine (s.htvalOfTrap_cases t).imp_right fun ⟨g', hg', _, _, _, hval, hholds⟩ => ?_
    obtain rfl : g = g' := Option.some.inj (hg.symm.trans hg')
    exact ⟨hval, hholds⟩
  case zero =>
    refine (s.htvalOfTrap_cases t).resolve_right fun ⟨g, hg, hint, hcode, _, _, _⟩ => ?_
    rcases h with hi | hc | hn
    · exact absurd (hint.symm.trans hi) (by decide)
    · exact hc hcode
    · exact absurd (hg.symm.trans hn) (by simp)
  case zeroInst =>
    refine if_pos ?_
    rcases h with hz | hi
    · simp [hz]
    · simp [hi]
  case pseudo => exact (Decidable.em (s.htvalOfTrap t = 0)).imp_right (State.htinstOfTrap_implicit hg him)

end Sys2Proof.Machine

/-! ## Exceptions, part 4: MRET (60_exceptions.md R358) -/

namespace Sys2Proof.Machine

theorem exec_mret {s : State} (hp : s.priv = .m) : exec .mret s = .next s.returnMachine := by
  show s.unlessBarred .mret (if s.priv = .m then none else some excIllegal) _ = _
  rw [if_pos hp]
  rfl

/-- MRET, bit by bit: MPV cleared, MPP set to U, MPIE set, MPIE moved to MIE. -/
theorem State.bit_returnMachine_mstatus (s : State) (i : Nat) :
    bit s.returnMachine.mach.mstatus i =
      if i = 39 then false else if 11 ≤ i ∧ i < 13 then false else if i = 7 then true
      else if i = 3 then bit s.mach.mstatus 7 else bit s.mach.mstatus i := by
  simp [State.returnMachine, bit_setBit, bit_setField, Priv.code]

/-- MRET leaves the modes as wide as they were. -/
theorem State.returnMachine_xlen (s : State) :
    s.returnMachine.xlen = s.xlenOf (privOfCode s.mstatusMpp != .m && s.mstatusMpv) (privOfCode s.mstatusMpp) := by
  have huxl : field s.returnMachine.mach.mstatus 32 2 = field s.mach.mstatus 32 2 :=
    field_congr _ _ fun j _ => by
      rw [s.bit_returnMachine_mstatus, if_neg (by omega), if_neg (by omega), if_neg (by omega), if_neg (by omega)]
  exact State.xlenOf_congr (s := s) (t := s.returnMachine) rfl rfl rfl huxl _ _

/-- An encoding of a privilege other than 2 names the privilege it is the code of. -/
theorem privOfCode_spec {n : Nat} (hlt : n < 2 ^ 2) (h2 : n ≠ 2) :
    (privOfCode n).code = n ∧ (privOfCode n != .m) = (n != 3) := by
  obtain rfl | rfl | rfl : n = 0 ∨ n = 1 ∨ n = 3 := by omega
  · exact ⟨rfl, rfl⟩
  · exact ⟨rfl, rfl⟩
  · exact ⟨rfl, rfl⟩

/-- Settles O28: MRET in M-mode is `State.returnMachine`, whose `mstatus` is read bit by bit. -/
theorem mretRestoresModeFromMpvAndMpp : Obligations.MretRestoresModeFromMpvAndMpp := by
  unfold Obligations.MretRestoresModeFromMpvAndMpp
  intro s hp hmpp
  obtain ⟨hcode, hm⟩ := privOfCode_spec (field_lt _ _ _) hmpp
  have hstatus := s.bit_returnMachine_mstatus
  refine ⟨s.returnMachine, exec_mret hp, hcode, congrArg (· && s.mstatusMpv) hm, hstatus 3, hstatus 7,
    s.returnMachine_mpp, hstatus 39, fun hx => ?pc, fun i h3 h7 h11 h12 h39 => ?mstatus, rfl, rfl, rfl, rfl,
    ⟨rfl, rfl, rfl, ⟨rfl, rfl, rfl⟩, rfl, rfl⟩⟩
  case pc =>
    rw [← hx, s.returnMachine_xlen]
    rfl
  case mstatus => rw [hstatus i, if_neg h39, if_neg (by omega), if_neg h7, if_neg h3]

end Sys2Proof.Machine

/-! ## Exceptions, part 5: which interrupt a step takes (60_exceptions.md R330 to R337) -/

namespace Sys2Proof.Machine

/-! ### The first pending interrupt of an order -/

theorem exists_firstPending {global : Bool} {pending : Nat → Bool} {order : List Nat} :
    (∃ i, firstPending global pending order = some i) ↔ global = true ∧ ∃ i ∈ order, pending i = true := by
  rw [← Option.ne_none_iff_exists', Ne, firstPending_none]
  simp

/-- Nothing that stands before the first pending one is pending. -/
theorem firstPending_before {global : Bool} {pending : Nat → Bool} {order : List Nat} {i j : Nat}
    (h : firstPending global pending order = some i) (hlt : order.idxOf j < order.idxOf i) : pending j = false := by
  obtain ⟨hglobal, -, -⟩ := firstPending_some h
  rw [firstPending, if_pos hglobal, List.find?_eq_some_iff_append] at h
  obtain ⟨-, before, rest, rfl, hbefore⟩ := h
  have hle : (before ++ i :: rest).idxOf i ≤ before.length := by
    rw [List.idxOf_append]
    split
    · exact List.idxOf_le_length
    · exact Nat.le_of_eq (by rw [List.idxOf_cons_self, Nat.zero_add])
  have hj : j ∈ before := Decidable.byContradiction fun hj => by
    rw [List.idxOf_append, if_neg hj] at hlt
    omega
  simpa using hbefore j hj

/-- The interrupt taken is the first pending one of its level, and of no level before it is one pending. -/
theorem State.interrupt_eq_some_iff {s : State} {g : Target} {i : Nat} :
    s.interrupt = some (g, i) ↔
      (g = .machine ∧ firstPending s.machineGlobal s.machinePending machineOrder = some i) ∨
      (g = .hyper ∧ firstPending s.machineGlobal s.machinePending machineOrder = none ∧
        firstPending s.hyperGlobal s.hyperPending hyperOrder = some i) ∨
      (g = .guest ∧ firstPending s.machineGlobal s.machinePending machineOrder = none ∧
        firstPending s.hyperGlobal s.hyperPending hyperOrder = none ∧
        firstPending s.guestGlobal s.guestPending guestOrder = some i) := by
  unfold State.interrupt
  cases firstPending s.machineGlobal s.machinePending machineOrder with
  | some j => simp [eq_comm (a := g)]
  | none =>
    cases firstPending s.hyperGlobal s.hyperPending hyperOrder with
    | some j => simp [eq_comm (a := g)]
    | none =>
      cases firstPending s.guestGlobal s.guestPending guestOrder with
      | some j => simp [eq_comm (a := g)]
      | none => simp

theorem State.interrupt_machine_iff {s : State} {i : Nat} :
    s.interrupt = some (.machine, i) ↔ firstPending s.machineGlobal s.machinePending machineOrder = some i := by
  simp [State.interrupt_eq_some_iff]

theorem State.interrupt_hyper_iff {s : State} {i : Nat} :
    s.interrupt = some (.hyper, i) ↔ firstPending s.machineGlobal s.machinePending machineOrder = none ∧
      firstPending s.hyperGlobal s.hyperPending hyperOrder = some i := by
  simp [State.interrupt_eq_some_iff]

theorem State.interrupt_guest_iff {s : State} {i : Nat} :
    s.interrupt = some (.guest, i) ↔ firstPending s.machineGlobal s.machinePending machineOrder = none ∧
      firstPending s.hyperGlobal s.hyperPending hyperOrder = none ∧
      firstPending s.guestGlobal s.guestPending guestOrder = some i := by
  simp [State.interrupt_eq_some_iff]

/-! ### The levels, in terms of the CSRs as read -/

theorem State.hyperGlobal_iff (s : State) :
    s.hyperGlobal = true ↔ s.priv ≠ .m ∧ (s.v = true ∨ s.priv = .u ∨ s.sie = true) := by
  simp [State.hyperGlobal, or_assoc]

/-- Pending for HS-mode, by the rule of the interrupt's kind. -/
theorem State.hyperPending_iff (s : State) (i : Nat) :
    s.hyperPending i = true ↔
      (i ∈ [1, 5, 9] ∧ bit (s.readCsr .sip) i = true ∧ bit (s.readCsr .sie) i = true ∧
        bit (s.readCsr .mideleg) i = true) ∨
      (i = 12 ∧ bit (s.readCsr .hip) 12 = true ∧ bit (s.readCsr .hie) 12 = true) ∨
      (i ∈ [2, 6, 10] ∧ bit (s.readCsr .hip) i = true ∧ bit (s.readCsr .hie) i = true ∧
        bit (s.readCsr .hideleg) i = false) := by
  by_cases hsup : i ∈ [1, 5, 9]
  · simp only [List.mem_cons, List.not_mem_nil, or_false] at hsup
    rcases hsup with rfl | rfl | rfl <;> simp [State.hyperPending, State.readCsr, and_assoc]
  by_cases hgei : i = 12
  · subst hgei
    simp [State.hyperPending, State.readCsr]
  by_cases hvs : i ∈ [2, 6, 10]
  · simp only [List.mem_cons, List.not_mem_nil, or_false] at hvs
    rcases hvs with rfl | rfl | rfl <;> simp [State.hyperPending, State.readCsr, and_assoc]
  · have hnone : s.hyperPending i = false := by
      simp only [List.mem_cons, List.not_mem_nil, or_false] at hsup hvs
      rw [State.hyperPending, if_neg hsup, if_neg hgei, if_neg hvs]
    simp [hnone, hsup, hgei, hvs]

/-- Every interrupt that can be pending for HS-mode has its place in the order. -/
theorem State.mem_hyperOrder_of_pending {s : State} {i : Nat} (h : s.hyperPending i = true) : i ∈ hyperOrder := by
  have hplaces : ∀ j ∈ [1, 5, 9] ++ [12] ++ [2, 6, 10], j ∈ hyperOrder := by decide
  refine hplaces i ?_
  simp only [List.mem_append, List.mem_singleton]
  obtain ⟨hi, -⟩ | ⟨hi, -⟩ | ⟨hi, -⟩ := (s.hyperPending_iff i).mp h
  · exact .inl (.inl hi)
  · exact .inl (.inr hi)
  · exact .inr hi

theorem State.guestGlobal_iff (s : State) :
    s.guestGlobal = true ↔ s.v = true ∧ (s.priv = .u ∨ s.vsSie = true) := by
  simp [State.guestGlobal]

theorem State.guestPending_iff (s : State) (i : Nat) :
    s.guestPending i = true ↔
      bit (s.readCsr .hip) i = true ∧ bit (s.readCsr .hie) i = true ∧ bit (s.readCsr .hideleg) i = true := by
  simp [State.guestPending, State.readCsr, and_assoc]

theorem State.machineGlobal_iff (s : State) : s.machineGlobal = true ↔ s.priv ≠ .m ∨ s.mstatusMie = true := by
  simp [State.machineGlobal]

/-- Bits 9, 5 and 1 of `mideleg` are stored, 12, 10, 6 and 2 are one. -/
theorem bit_midelegImage (w : Word) (i : Nat) :
    bit ((w &&& supMask) ||| 0x1444) i = (bit w i && decide (i ∈ [9, 5, 1]) || decide (i ∈ [12, 10, 6, 2])) := by
  rw [bit_or, bit_and, bit_mask_eq (m := supMask) (l := [9, 5, 1]) (by decide) (by decide),
    bit_mask_eq (m := 0x1444) (l := [12, 10, 6, 2]) (by decide) (by decide)]

/-- `mideleg` passes on every VS-level and guest external interrupt. -/
theorem State.machinePending_virtual (s : State) {i : Nat} (hi : i ∈ [12, 10, 6, 2]) : s.machinePending i = false := by
  rw [State.machinePending, State.midelegBits, bit_midelegImage, decide_eq_true hi]
  simp

/-- `mideleg` keeps every machine interrupt. -/
theorem State.machinePending_machine (s : State) {i : Nat} (hi : i ∈ [11, 3, 7]) :
    s.machinePending i = (bit (s.readCsr .mip) i && bit (s.readCsr .mie) i) := by
  have hkept : ∀ j ∈ [11, 3, 7], j ∉ [9, 5, 1] ∧ j ∉ [12, 10, 6, 2] := by decide
  obtain ⟨hsup, hvs⟩ := hkept i hi
  rw [State.machinePending, State.midelegBits, bit_midelegImage, decide_eq_false hsup, decide_eq_false hvs, Bool.and_false,
    Bool.or_false, Bool.not_false, Bool.and_true]
  rfl

/-! ### The statements -/

/-- Settles O59: the first pending one of the order, and one is taken where one is pending and nothing at M-level is. -/
theorem hsInterruptsAreTakenWhenPendingInTheStatedOrder :
    Obligations.HsInterruptsAreTakenWhenPendingInTheStatedOrder := by
  unfold Obligations.HsInterruptsAreTakenWhenPendingInTheStatedOrder
  refine ⟨fun s i h => ?first, fun s hm => ?taken⟩
  case first =>
    obtain ⟨-, hfirst⟩ := State.interrupt_hyper_iff.mp h
    obtain ⟨-, hmem, hpending⟩ := firstPending_some hfirst
    exact ⟨hmem, hpending, fun j _ hlt => firstPending_before hfirst hlt⟩
  case taken =>
    have hnone : firstPending s.machineGlobal s.machinePending machineOrder = none :=
      Option.eq_none_iff_forall_ne_some.mpr fun i hi => hm i (State.interrupt_machine_iff.mpr hi)
    simp only [State.interrupt_hyper_iff, hnone, true_and, exists_firstPending, s.hyperGlobal_iff, ← s.hyperPending_iff]
    exact and_congr_right fun _ => exists_congr fun i =>
      and_iff_right_of_imp fun hi => State.mem_hyperOrder_of_pending hi

/-- Of the M-level interrupts the standard three come first, in their order. -/
theorem machineOrder_upto_standard : ∀ i ∈ [11, 3, 7], ∀ j ∈ machineOrder,
    machineOrder.idxOf j ≤ machineOrder.idxOf i → j ∈ [11, 3, 7] ∧ [11, 3, 7].idxOf j ≤ [11, 3, 7].idxOf i := by
  decide

/-- Settles O60: level by level, from the first pending interrupt of each. -/
theorem virtualInterruptsGoToTheirLevels : Obligations.VirtualInterruptsGoToTheirLevels := by
  unfold Obligations.VirtualInterruptsGoToTheirLevels
  refine ⟨fun s i h => ?guest, fun s i hv hsie hi hip hie hideleg => ?some, fun s w => ⟨_, rfl, fun i hi => ?readOnly,
    fun i hi => ?written⟩, fun s i hi h => ?never, fun s i j h _ hlt hj => ?order, fun s i hi hglobal hip hie => ?machine,
    fun s i hi hglobal hpending => ?level⟩
  case guest =>
    obtain ⟨-, -, hfirst⟩ := State.interrupt_guest_iff.mp h
    obtain ⟨hglobal, hi, hpending⟩ := firstPending_some hfirst
    obtain ⟨hv, hsie⟩ := s.guestGlobal_iff.mp hglobal
    obtain ⟨hip, hie, hideleg⟩ := (s.guestPending_iff i).mp hpending
    have hpos : ∀ j ∈ [10, 2, 6], j - 1 < 32 ∧ j - 1 + 1 = j ∧ j ∈ [10, 6, 2] := by decide
    obtain ⟨hlow, hsucc, hvs⟩ := hpos i hi
    refine ⟨hv, hsie, hi, hip, hie, hideleg, ?_, ?_⟩
    · rw [s.bit_readCsr_vsip hlow, hsucc, Bool.and_eq_true]
      exact ⟨hideleg, hip⟩
    · rw [s.bit_readCsr_vsie hlow, hsucc, Bool.and_eq_true, ← s.bit_hie_vs hvs]
      exact ⟨hideleg, hie⟩
  case some =>
    have hpending : s.guestPending i = true := (s.guestPending_iff i).mpr ⟨hip, hie, hideleg⟩
    cases h : s.interrupt with
    | some taken => exact ⟨taken.1, taken.2, rfl⟩
    | none =>
      obtain ⟨-, -, hguest⟩ := State.interrupt_none.mp h
      have hclear := firstPending_none.mp hguest (s.guestGlobal_iff.mpr ⟨hv, hsie⟩) i hi
      exact absurd (hclear.symm.trans hpending) (by decide)
  case readOnly => exact (bit_midelegImage _ i).trans (by rw [decide_eq_true hi, Bool.or_true])
  case written =>
    have hwritable : ∀ j ∈ [9, 5, 1], j ∉ [12, 10, 6, 2] := by decide
    refine (bit_midelegImage ((w &&& supMask) ||| 0x1444) i).trans ?_
    rw [bit_midelegImage, decide_eq_true hi, decide_eq_false (hwritable i hi)]
    simp only [Bool.and_true, Bool.or_false]
  case never =>
    obtain ⟨-, -, hpending⟩ := firstPending_some (State.interrupt_machine_iff.mp h)
    exact absurd ((s.machinePending_virtual hi).symm.trans hpending) (by decide)
  case order =>
    obtain ⟨-, -, hfirst⟩ := State.interrupt_guest_iff.mp h
    have hclear := firstPending_before hfirst hlt
    exact absurd (hclear.symm.trans ((s.guestPending_iff j).mpr hj)) (by decide)
  case machine =>
    have hpending : s.machinePending i = true := by rw [s.machinePending_machine hi, hip, hie]; rfl
    have hmem : ∀ k ∈ [11, 3, 7], k ∈ machineOrder := by decide
    obtain ⟨j, hj⟩ := exists_firstPending.mpr ⟨s.machineGlobal_iff.mpr hglobal, i, hmem i hi, hpending⟩
    have hle : machineOrder.idxOf j ≤ machineOrder.idxOf i :=
      Nat.le_of_not_lt fun hlt => absurd ((firstPending_before hj hlt).symm.trans hpending) (by decide)
    obtain ⟨-, hjmem, -⟩ := firstPending_some hj
    obtain ⟨hstandard, hbefore⟩ := machineOrder_upto_standard i hi j hjmem hle
    exact ⟨j, hstandard, State.interrupt_machine_iff.mpr hj, hbefore⟩
  case level =>
    obtain ⟨k, hk⟩ := exists_firstPending.mpr ⟨hglobal, i, hi, hpending⟩
    cases hm : firstPending s.machineGlobal s.machinePending machineOrder with
    | some j => exact ⟨.machine, j, State.interrupt_machine_iff.mpr hm, by decide⟩
    | none => exact ⟨.hyper, k, State.interrupt_hyper_iff.mpr ⟨hm, hk⟩, by decide⟩

/-- Settles O5: a step at a fetched word that decodes. -/
theorem stepRunsTheDecodedInstruction : Obligations.StepRunsTheDecodedInstruction := by
  unfold Obligations.StepRunsTheDecodedInstruction
  exact fun _ _ _ _ hi hf hd => step_of_fetch hi hf hd

/-- A step with an interrupt to take does not look at the instruction. -/
theorem step_of_interrupt {s : State} {g : Target} {c : Nat} (h : s.interrupt = some (g, c)) :
    step s = .next (s.takeInterrupt g c).platformStep := by
  simp only [step, hartStep, h, withPlatform]

/-- Settles O7: the step is the trap entry, which keeps registers and memory. -/
theorem interruptIsTakenBeforeTheInstruction : Obligations.InterruptIsTakenBeforeTheInstruction := by
  unfold Obligations.InterruptIsTakenBeforeTheInstruction
  exact fun s g c h => ⟨step_of_interrupt h, s.takeInterrupt_regs g c, s.takeInterrupt_mem g c⟩

end Sys2Proof.Machine


/-! ## Reset: the mode, the pc and the interrupt enable (70_reset_and_hazards.md R402) -/

namespace Sys2Proof.Machine

open Sys2Proof

/-- The low half of a word with nothing but a width code in its high half is 0, whatever the code. -/
theorem bit_widthCode_low (n : Nat) {i : Nat} (hi : i < 32) : bit (BitVec.ofNat 64 (n * 2 ^ 32)) i = false := by
  have hlow : (n * 2 ^ 32).testBit i = false := by
    rw [Nat.testBit_mul_two_pow, decide_eq_false (Nat.not_le.mpr hi), Bool.false_and]
  rw [bit, BitVec.getLsbD_ofNat, hlow, Bool.and_false]

/-- After reset `mstatus` is 0 in its low half, where MIE stands: the only field that can be set is UXL. -/
theorem State.bit_resetOf_mstatus_low (c : Config) {i : Nat} (hi : i < 32) :
    bit (State.resetOf c).mach.mstatus i = false := by
  unfold State.resetOf
  dsimp only
  cases c.hsxlen with
  | x32 => exact bit_zero i
  | x64 => exact bit_widthCode_low (c.uxlLegal.headD 2) hi

/-- Settles O17: MIE is bit 3 of an `mstatus` that resets to at most a width code. -/
theorem resetIsMachineModeWithInterruptsMasked : Obligations.ResetIsMachineModeWithInterruptsMasked := by
  unfold Obligations.ResetIsMachineModeWithInterruptsMasked
  exact fun c => ⟨rfl, rfl, rfl, State.bit_resetOf_mstatus_low c (by decide)⟩

end Sys2Proof.Machine
